-- ==== Sys2Proof/Word.lean ====
section
/-! DEFINITION. The bit vectors of spec/00_scope.md R10 and spec/30_encoding.md R60, R63: bytes, half-words, words,
input tokens and dispatch keys. -/

namespace Sys2Proof

/-- `u8` (R10): one stream byte, one payload cell. -/
abbrev Byte := BitVec 8

/-- `u16` (R10), and the bits of an `s16`; an `s16` is read by `BitVec.toInt` (log entry 12). -/
abbrev Half := BitVec 16

/-- The bits of an `s32` (R10), read by `BitVec.toInt` (log entry 12). -/
abbrev Word := BitVec 32

/-- An input token `T` (R60): `T[8]` is the kind, `T[7:0]` the data. -/
abbrev Token := BitVec 9

/-- A dispatch key `KEY = st[2:0] ++ K ++ D[7:0]` (R63). -/
abbrev Key := BitVec 12

end Sys2Proof
end

