-- ==== Sys2Proof/Config.lean ====
section
/-! DEFINITION. The configuration record `cfg` of spec/00_scope.md R6. The default values and the derived constants are
in Sys2Proof/Machine/Params.lean, the legal ranges in Sys2Proof/WellFormed.lean. -/

namespace Sys2Proof

/-- `CSUM_ORDER` (R6, R46): which received checksum byte is bits 15:8. -/
inductive CsumOrder
  /-- The first byte on the wire is the high byte. -/
  | highFirst
  /-- The first byte on the wire is the low byte. -/
  | lowFirst
  deriving DecidableEq, Repr

/-- `CRC_ALG` (R6, R81): the parameters of the CRC. -/
structure CrcAlg where
  poly   : Half
  init   : Half
  refin  : Bool
  refout : Bool
  xorout : Half
  deriving DecidableEq, Repr

/-- The configuration record (R6). Its fields are fixed for a run (R6, R184). -/
structure Config where
  sync      : Byte
  lenConst  : Byte
  deviceId  : Byte
  csumOrder : CsumOrder
  crcAlg    : CrcAlg
  /-- `CNT_W`: the width of the two counters, in bits. -/
  cntW      : Nat
  deriving DecidableEq, Repr

end Sys2Proof
end

