-- ==== Sys2Proof/Syntax.lean ====
section
/-! DEFINITION. The instructions: one constructor per row of spec/opcode_table.json (spec/30_encoding.md R63).
The block fetches no instructions; a step's "instruction" is the pair of the FSM state and the token (R2). -/

namespace Sys2Proof

/-- The thirteen rows of the dispatch map (R63). `d` is `KEY[7:0]` and `k` is `KEY[8]`; in the EOI rows and the last
three rows the spec ignores them, and the constructor keeps them so that no bit of a key is lost (log entry 13). -/
inductive Instr
  /-- R101 -/
  | byteSearchSync (d : Byte)
  /-- R108 -/
  | eoiSearchSync (d : Byte)
  /-- R102 -/
  | byteReadSync (d : Byte)
  /-- R108 -/
  | eoiReadSync (d : Byte)
  /-- R103 -/
  | byteReadLength (d : Byte)
  /-- R108 -/
  | eoiReadLength (d : Byte)
  /-- R104 -/
  | byteReadPacket (d : Byte)
  /-- R108 -/
  | eoiReadPacket (d : Byte)
  /-- R105 -/
  | byteReadChecksum (d : Byte)
  /-- R108 -/
  | eoiReadChecksum (d : Byte)
  /-- R110 -/
  | illegalSt5 (k : BitVec 1) (d : Byte)
  /-- R110 -/
  | illegalSt6 (k : BitVec 1) (d : Byte)
  /-- R109 -/
  | anyExiting (k : BitVec 1) (d : Byte)
  deriving DecidableEq, Repr

end Sys2Proof
end

