-- ==== Sys2Proof/WellFormed.lean ====
section
/-! DEFINITION. The checks: the legal ranges of a configuration (spec/00_scope.md R6, R8; spec/70_reset_and_hazards.md R184),
and that an instruction belongs to the FSM state it is run in (spec/30_encoding.md R63). Every operand of every row is legal
(R64), so no other check on an instruction exists. -/

namespace Sys2Proof

/-- `LEN_CONST` from 3 to 255 (its 8 bits give the upper bound), `CNT_W >= 1`, any `CRC_ALG` (R6, R8, R184). -/
def Config.wf (c : Config) : Bool :=
  decide (3 ≤ c.lenConst.toNat) && decide (1 ≤ c.cntW)

/-- `KEY[11:9]` of the instruction's row (R63). -/
def Instr.st : Instr → BitVec 3
  | .byteSearchSync _   => 0#3
  | .eoiSearchSync _    => 0#3
  | .byteReadSync _     => 1#3
  | .eoiReadSync _      => 1#3
  | .byteReadLength _   => 2#3
  | .eoiReadLength _    => 2#3
  | .byteReadPacket _   => 3#3
  | .eoiReadPacket _    => 3#3
  | .byteReadChecksum _ => 4#3
  | .eoiReadChecksum _  => 4#3
  | .illegalSt5 _ _     => 5#3
  | .illegalSt6 _ _     => 6#3
  | .anyExiting _ _     => 7#3

/-- An instruction is well formed for a machine whose state register holds `st` when its row is one of that state's rows:
the key's first three bits ARE the state register (R63). -/
def Instr.runsIn (i : Instr) (st : BitVec 3) : Bool :=
  i.st == st

end Sys2Proof
end

