-- ==== Sys2Proof/Decode.lean ====
section
/-! DEFINITION. Tokens, the dispatch key, the opcode map, the decoder and the encoder (spec/30_encoding.md R60-R64). -/

namespace Sys2Proof

/-! ### Tokens (R60-R62) -/

/-- `K`: bit 8 of a token, 0 for BYTE and 1 for EOI (R60). -/
def Token.k (t : Token) : BitVec 1 := t.extractLsb' 8 1

/-- `D`: bits 7:0 of a token (R60). -/
def Token.d (t : Token) : Byte := t.extractLsb' 0 8

/-- `BYTE(d)`: `K = 0, D = d` (R61). -/
def Token.byte (d : Byte) : Token := 0#1 ++ d

/-- The EOI token whose ignored data bits are `d`: `K = 1` (R62). -/
def Token.eoiWith (d : Byte) : Token := 1#1 ++ d

/-- `EOI` as a token generator should drive it: `D = 0`, encoding `0x100` (R62, R67). -/
def Token.eoi : Token := Token.eoiWith 0#8

/-! ### The dispatch key and the opcode map (R63) -/

/-- `KEY = st ++ K ++ D`, and a token is `K ++ D` (R60, R63). -/
def dispatchKey (st : BitVec 3) (t : Token) : Key := st ++ t

/-- `KEY[11:9]` (R63). -/
def Key.st (k : Key) : BitVec 3 := k.extractLsb' 9 3

/-- `KEY[8]` (R63). -/
def Key.k (k : Key) : BitVec 1 := k.extractLsb' 8 1

/-- `KEY[7:0]` (R63). -/
def Key.d (k : Key) : Byte := k.extractLsb' 0 8

/-- A row of the opcode map: a key matches it when `KEY & mask == match` (R63). -/
structure OpcodeRow where
  mnemonic : String
  pattern  : Key
  mask     : Key
  deriving DecidableEq, Repr

/-- The opcode map of R63, in its order. -/
def opcodeRows : List OpcodeRow :=
  [ ⟨"BYTE.SEARCH_SYNC",   0x000#12, 0xF00#12⟩,
    ⟨"EOI.SEARCH_SYNC",    0x100#12, 0xF00#12⟩,
    ⟨"BYTE.READ_SYNC",     0x200#12, 0xF00#12⟩,
    ⟨"EOI.READ_SYNC",      0x300#12, 0xF00#12⟩,
    ⟨"BYTE.READ_LENGTH",   0x400#12, 0xF00#12⟩,
    ⟨"EOI.READ_LENGTH",    0x500#12, 0xF00#12⟩,
    ⟨"BYTE.READ_PACKET",   0x600#12, 0xF00#12⟩,
    ⟨"EOI.READ_PACKET",    0x700#12, 0xF00#12⟩,
    ⟨"BYTE.READ_CHECKSUM", 0x800#12, 0xF00#12⟩,
    ⟨"EOI.READ_CHECKSUM",  0x900#12, 0xF00#12⟩,
    ⟨"ILLEGAL.ST5",        0xA00#12, 0xE00#12⟩,
    ⟨"ILLEGAL.ST6",        0xC00#12, 0xE00#12⟩,
    ⟨"ANY.EXITING",        0xE00#12, 0xE00#12⟩ ]

/-- The test of R63. -/
def OpcodeRow.fits (r : OpcodeRow) (k : Key) : Bool := k &&& r.mask == r.pattern

/-- The row name of an instruction, as spec/opcode_table.json spells it. -/
def Instr.mnemonic : Instr → String
  | .byteSearchSync _   => "BYTE.SEARCH_SYNC"
  | .eoiSearchSync _    => "EOI.SEARCH_SYNC"
  | .byteReadSync _     => "BYTE.READ_SYNC"
  | .eoiReadSync _      => "EOI.READ_SYNC"
  | .byteReadLength _   => "BYTE.READ_LENGTH"
  | .eoiReadLength _    => "EOI.READ_LENGTH"
  | .byteReadPacket _   => "BYTE.READ_PACKET"
  | .eoiReadPacket _    => "EOI.READ_PACKET"
  | .byteReadChecksum _ => "BYTE.READ_CHECKSUM"
  | .eoiReadChecksum _  => "EOI.READ_CHECKSUM"
  | .illegalSt5 _ _     => "ILLEGAL.ST5"
  | .illegalSt6 _ _     => "ILLEGAL.ST6"
  | .anyExiting _ _     => "ANY.EXITING"

/-! ### The decoder -/

/-- The instruction of a key. It is total because the thirteen rows cover all 4096 keys (R63, R64): after the twelve tests
the only keys left have `KEY & 0xE00 == 0xE00`, the row ANY.EXITING. -/
def decodeKey (k : Key) : Instr :=
  if k &&& 0xF00#12 = 0x000#12 then .byteSearchSync (Key.d k)
  else if k &&& 0xF00#12 = 0x100#12 then .eoiSearchSync (Key.d k)
  else if k &&& 0xF00#12 = 0x200#12 then .byteReadSync (Key.d k)
  else if k &&& 0xF00#12 = 0x300#12 then .eoiReadSync (Key.d k)
  else if k &&& 0xF00#12 = 0x400#12 then .byteReadLength (Key.d k)
  else if k &&& 0xF00#12 = 0x500#12 then .eoiReadLength (Key.d k)
  else if k &&& 0xF00#12 = 0x600#12 then .byteReadPacket (Key.d k)
  else if k &&& 0xF00#12 = 0x700#12 then .eoiReadPacket (Key.d k)
  else if k &&& 0xF00#12 = 0x800#12 then .byteReadChecksum (Key.d k)
  else if k &&& 0xF00#12 = 0x900#12 then .eoiReadChecksum (Key.d k)
  else if k &&& 0xE00#12 = 0xA00#12 then .illegalSt5 (Key.k k) (Key.d k)
  else if k &&& 0xE00#12 = 0xC00#12 then .illegalSt6 (Key.k k) (Key.d k)
  else .anyExiting (Key.k k) (Key.d k)

/-- Why bytes are not a dispatch key. -/
inductive DecodeError
  /-- A key is laid out in exactly two bytes, the low byte first (log entry 7). -/
  | notTwoBytes
  /-- A key has 12 bits; bits 15:12 of the two bytes are not all 0. -/
  | widerThanKey
  deriving DecidableEq, Repr

/-- The decoder on any bytes: a dispatch key as two bytes, the low byte (`D`) first, bits 15:12 zero. The spec gives a key
no byte layout; this one serves `decodeTableWord` only (log entry 7). -/
def decode (bytes : List Byte) : Except DecodeError Instr :=
  match bytes with
  | [low, high] =>
    if high.extractLsb' 4 4 = 0#4 then .ok (decodeKey (high.extractLsb' 0 4 ++ low))
    else .error .widerThanKey
  | _ => .error .notTwoBytes

/-- The instruction the decoder reads from a table word of `nbits` bits (12, or 16 in whole bytes). -/
def decodeTableWord (nbits w : Nat) : Option Instr :=
  if 16 < nbits ∨ 0x10000 ≤ w then none
  else
    match decode [BitVec.ofNat 8 w, BitVec.ofNat 8 (w >>> 8)] with
    | .ok i => some i
    | .error _ => none

/-! ### The encoder, from the columns of the opcode map (R63) -/

/-- The dispatch key of an instruction: its row's `st` and `K` and its operands. -/
def encode : Instr → Key
  | .byteSearchSync d   => 0b000#3 ++ (0#1 ++ d)
  | .eoiSearchSync d    => 0b000#3 ++ (1#1 ++ d)
  | .byteReadSync d     => 0b001#3 ++ (0#1 ++ d)
  | .eoiReadSync d      => 0b001#3 ++ (1#1 ++ d)
  | .byteReadLength d   => 0b010#3 ++ (0#1 ++ d)
  | .eoiReadLength d    => 0b010#3 ++ (1#1 ++ d)
  | .byteReadPacket d   => 0b011#3 ++ (0#1 ++ d)
  | .eoiReadPacket d    => 0b011#3 ++ (1#1 ++ d)
  | .byteReadChecksum d => 0b100#3 ++ (0#1 ++ d)
  | .eoiReadChecksum d  => 0b100#3 ++ (1#1 ++ d)
  | .illegalSt5 k d     => 0b101#3 ++ (k ++ d)
  | .illegalSt6 k d     => 0b110#3 ++ (k ++ d)
  | .anyExiting k d     => 0b111#3 ++ (k ++ d)

/-- The two bytes of an instruction's key, the low byte first (log entry 7). -/
def encodeBytes (i : Instr) : List Byte :=
  [(encode i).extractLsb' 0 8, 0#4 ++ (encode i).extractLsb' 8 4]

end Sys2Proof
end

