-- ==== Sys2Proof/Machine/Params.lean ====
section
/-! DEFINITION. The default configuration and the derived constants (spec/00_scope.md R6, R7; spec/40_checksum.md R82). -/

namespace Sys2Proof

/-- CRC-16/ARC, this hardware's default `CRC_ALG` (R6, R82; log entry 6). -/
def CrcAlg.arc : CrcAlg :=
  { poly := 0x8005#16, init := 0x0000#16, refin := true, refout := true, xorout := 0x0000#16 }

/-- The default configuration: this hardware's values (R6; log entry 6). -/
def Config.default : Config :=
  { sync := 0xAA#8, lenConst := 45#8, deviceId := 0x87#8, csumOrder := .highFirst, crcAlg := CrcAlg.arc, cntW := 32 }

/-- `PLEN = LEN_CONST - 2`: the payload length in bytes, the device-id byte included (R7). -/
def Config.plen (c : Config) : Nat := c.lenConst.toNat - 2

/-- `REC_BYTES`: the payload bytes after the device-id byte that the record layout needs (R7). -/
def recBytes : Nat := 42

/-- `2^CNT_W - 1`: the value at which the counters saturate (R107). -/
def Config.maxCount (c : Config) : Nat := 2 ^ c.cntW - 1

end Sys2Proof
end

