-- ==== Sys2Proof/Machine/State.lean ====
section
/-! DEFINITION. The state of the framing block (spec/10_state.md R20-R34), with the configuration, the host's pending moves and
the events emitted beside it (log entries 1, 2, 3); the record, the output events, and the two ways a step can stop. -/

namespace Sys2Proof.Machine

/-- The FSM states (R21). -/
@[simp] abbrev St.searchSync : BitVec 3 := 0b000#3
@[simp] abbrev St.readSync : BitVec 3 := 0b001#3
@[simp] abbrev St.readLength : BitVec 3 := 0b010#3
@[simp] abbrev St.readPacket : BitVec 3 := 0b011#3
@[simp] abbrev St.readChecksum : BitVec 3 := 0b100#3
/-- Reserved: the transient phases WriteHeader and WritePacket, never latched (R21, R111). -/
@[simp] abbrev St.writePacket : BitVec 3 := 0b101#3
/-- Reserved: the transient phase PrintStats, never latched (R21, R111). -/
@[simp] abbrev St.printStats : BitVec 3 := 0b110#3
@[simp] abbrev St.exiting : BitVec 3 := 0b111#3

/-- A Record: the sixteen fields of R136, in the order of R139. The 32-bit and 16-bit fields are signed and are read by
`BitVec.toInt`; `status` and `number` are unsigned. -/
structure Record where
  ax : Word
  ay : Word
  az : Word
  wx : Word
  wy : Word
  wz : Word
  tax : Half
  tay : Half
  taz : Half
  twx : Half
  twy : Half
  twz : Half
  s : Half
  timestamp : Half
  status : Byte
  number : Byte
  deriving DecidableEq, Repr

/-- An output event (R65). -/
inductive Event
  /-- Once per run, before the first `rec`. -/
  | hdr
  /-- One accepted record. -/
  | record (r : Record)
  /-- `STATS(t, v, i)`, once per run; three `CNT_W`-bit values. -/
  | stats (t v i : Nat)
  deriving DecidableEq, Repr

/-- What the host does in one step (R181, R186, R188). -/
inductive HostMove
  /-- It presents no token: the block waits (R188). -/
  | pause
  /-- It presents a token, which the step consumes (R100). -/
  | present (t : Token)
  /-- It asserts RESET and drives the configuration of the run that starts (R180, R184; log entry 1). A token on the port in
  that step is not taken (R181; log entry 10). -/
  | reset (cfg : Config) (held : Option Token)
  deriving DecidableEq, Repr

/-- The payload buffer: the written cells as (offset, byte) pairs, offsets strictly rising. An unlisted cell is *unwritten*
and holds no value (R34), so no entry can equal what an unlisted cell reads as. -/
abbrev Memory := List Host.Cell

/-- The canonical form: offsets strictly rising. -/
def Memory.wf (m : Memory) : Bool :=
  match m with
  | [] => true
  | [_] => true
  | c :: c' :: rest => decide (c.1 < c'.1) && Memory.wf (c' :: rest)

/-- The state. `st` to `valid` are the tuple of R20. -/
structure State where
  /-- The configuration of the present run (R6). Not the spec's state: an argument the model carries (log entry 1). -/
  cfg     : Config
  /-- The FSM state register (R21). -/
  st      : BitVec 3
  /-- The bytes already received by the current multi-byte read (R23). -/
  idx     : BitVec 8
  /-- The payload buffer (R24). -/
  pbuf    : Memory
  /-- The first received checksum byte (R25); `none` is the spec's *unwritten* (R34; log entry 5). -/
  c0      : Option Byte
  /-- The header trigger has fired in this run (R26). -/
  hdrDone : Bool
  /-- `total_candidates` (R27), a `CNT_W`-bit counter (log entry 4). -/
  total   : Nat
  /-- `valid_count` (R28), a `CNT_W`-bit counter (log entry 4). -/
  valid   : Nat
  /-- The host's moves still to come, the next one first (R60, R186; log entry 2). -/
  input   : List HostMove
  /-- The events this run has emitted, oldest first (R53, R189; log entry 3). -/
  events  : List Event
  deriving DecidableEq, Repr

/-- Why the machine stops with a fault. -/
inductive Fault
  /-- `Fault(IllegalState)`, condition code 7 (R110, R164). Raised by ILLEGAL.ST5 and ILLEGAL.ST6, by the rows of READ_PACKET and
  READ_CHECKSUM when `idx` is out of range (R23; for EOI, log entry 17), and by a read of an unwritten cell (R34, 93_implementation_defined.md I9).
  The spec's own outcome; safe: the block does not go on either. -/
  | illegalState
  deriving DecidableEq, Repr

/-- Why the model has no run. -/
inductive Refusal
  /-- An instruction that has no meaning yet, named as spec/opcode_table.json spells it. Raised by `exec` only. Safe. -/
  | notModelled (mnemonic : String)
  /-- A configuration outside the legal ranges: "the model has no run for it" (R8, R100). Raised by `step`. Safe. -/
  | illegalConfiguration
  deriving DecidableEq, Repr

/-- The machine right after reset (R34, R180), with the default configuration and nothing yet presented by the host
(log entries 2, 3, 6). -/
def State.reset : State :=
  { cfg := Config.default, st := St.searchSync, idx := 0#8, pbuf := [], c0 := none, hdrDone := false, total := 0, valid := 0,
    input := [], events := [] }

end Sys2Proof.Machine
end

