-- ==== Sys2Proof/Machine/Ops.lean ====
section
/-! DEFINITION. The shared operations: the payload buffer, the primitives of spec/00_scope.md R11, the one fault, the recovery
from a mismatch, end of input, reset, waiting, and the choice of the rule a token runs. -/

namespace Sys2Proof.Machine

/-- What a step or a meaning answers (R100). -/
abbrev Result := Host.Outcome State Fault Refusal

/-! ### The payload buffer (R24, R40, R43, R44) -/

/-- The byte a cell holds; `none` is *unwritten* (R34). -/
def Memory.read (m : Memory) (a : Nat) : Option Byte :=
  match m with
  | [] => none
  | c :: rest => if c.1 = a then some c.2 else Memory.read rest a

/-- `MemWrite(a, 1, b)` on the cells (R11, R43): the one store operation. -/
def Memory.write (m : Memory) (a : Nat) (b : Byte) : Memory :=
  match m with
  | [] => [(a, b)]
  | c :: rest =>
    if c.1 < a then c :: Memory.write rest a b
    else if c.1 = a then (a, b) :: rest
    else (a, b) :: c :: rest

/-- `MemRead(a, n)` on the cells (R11): `none` when one of them is unwritten. -/
def Memory.readRange (m : Memory) (a : Nat) : Nat → Option (List Byte)
  | 0 => some []
  | n + 1 =>
    match m.read a, Memory.readRange m (a + 1) n with
    | some b, some bs => some (b :: bs)
    | _, _ => none

/-- `S.pbuf[i] <- v` (R11, R43). -/
def State.memWrite (s : State) (i : Nat) (v : Byte) : State :=
  { s with pbuf := s.pbuf.write i v }

/-- The whole payload, `MemRead(0, PLEN)` (R44, R83, R130). -/
def State.payload (s : State) : Option (List Byte) :=
  s.pbuf.readRange 0 s.cfg.plen

/-! ### The primitives of R11 -/

/-- `goto X` (R11). -/
def State.goto (x : BitVec 3) (s : State) : State := { s with st := x }

/-- `emit E` (R11, R53): append to the events of the run (log entry 3). -/
def State.emit (e : Event) (s : State) : State := { s with events := s.events ++ [e] }

/-- `raise Fault(IllegalState)` (R11, R110, R164). The block has no trap entry and no trap return (R166, R167): this is all
that taking its one fault does. -/
def raiseIllegalState : Result := .fault .illegalState

/-- In READ_PACKET: `idx <= PLEN-1`, written `idx < PLEN` (R23, R110). The range check comes before everything else in that state, for
either kind of token (R165; log entry 17). -/
abbrev State.packetInRange (s : State) : Prop := s.idx.toNat < s.cfg.plen

/-- In READ_CHECKSUM: `idx` is 0 or 1 (R23, R110), checked first as in READ_PACKET (R165; log entry 17). -/
abbrev State.checksumInRange (s : State) : Prop := s.idx.toNat ≤ 1

/-- Resynchronisation: every mismatch goes to SEARCH_SYNC (R113, R162). -/
def State.resync (s : State) : State := s.goto St.searchSync

/-! ### End of input (R108) -/

/-- `(t - v)[CNT_W-1:0]` (R108). -/
def countDiff (cntW t v : Nat) : Nat := (BitVec.ofNat cntW t - BitVec.ofNat cntW v).toNat

/-- The PrintStats phase (R108, R111). -/
def State.printStats (s : State) : State :=
  { s.emit (.stats s.total s.valid (countDiff s.cfg.cntW s.total s.valid)) with idx := 0#8, st := St.exiting }

/-! ### Steps that run no token -/

/-- The state after RESET with the configuration driven in that step (R180, R184): the reset values of R34. The host's later
moves are not the block's to reset. -/
def State.afterReset (cfg : Config) (s : State) : State :=
  { State.reset with cfg := cfg, input := s.input }

/-- A step with RESET asserted (R180). A configuration outside the legal ranges has no run (R8; log entry 9). -/
def takeReset (cfg : Config) (s : State) : Result :=
  if cfg.wf then .next (s.afterReset cfg) else .refused .illegalConfiguration

/-- A step in which the host presents nothing: the state is unchanged (R188). -/
def wait (s : State) : Result :=
  if s.cfg.wf then .next s else .refused .illegalConfiguration

/-! ### The rule of a token (R63, R100) -/

/-- `KEY = S.st ++ T.K ++ T.D` (R63, R100). -/
def State.key (s : State) (t : Token) : Key := dispatchKey s.st t

/-- The instruction that a token is in this state (R63, R100). -/
def State.dispatch (s : State) (t : Token) : Instr := decodeKey (s.key t)

end Sys2Proof.Machine
end

