-- ==== Sys2Proof/Machine/Operands.lean ====
section
/-! DEFINITION. Operand assembly (spec/30_encoding.md R66; spec/00_scope.md R10): little-endian composition, the received
checksum, and the fields of a record. The data byte `D` is used unextended (R61). -/

namespace Sys2Proof.Machine

/-- `le16(b0, b1)` (R10): `b0` is the byte at the lower offset. -/
def le16 (b0 b1 : Byte) : Half := b0.setWidth 16 ||| (b1.setWidth 16 <<< 8)

/-- `le32(b0, b1, b2, b3)` (R10): `b0` is the byte at the lowest offset. -/
def le32 (b0 b1 b2 b3 : Byte) : Word :=
  b0.setWidth 32 ||| (b1.setWidth 32 <<< 8) ||| (b2.setWidth 32 <<< 16) ||| (b3.setWidth 32 <<< 24)

/-- The bytes of a 16-bit field, least significant first (R138). -/
def bytes16 (v : Half) : List Byte := [v.extractLsb' 0 8, v.extractLsb' 8 8]

/-- The bytes of a 32-bit field, least significant first (R138). -/
def bytes32 (v : Word) : List Byte :=
  [v.extractLsb' 0 8, v.extractLsb' 8 8, v.extractLsb' 16 8, v.extractLsb' 24 8]

/-- `compose(c0, c1)`: the received checksum in the configured order (R46, R86). -/
def compose (order : CsumOrder) (c0 c1 : Byte) : Half :=
  match order with
  | .highFirst => (c0.setWidth 16 <<< 8) ||| c1.setWidth 16
  | .lowFirst  => (c1.setWidth 16 <<< 8) ||| c0.setWidth 16

/-- The two checksum bytes of a frame in wire order: what `compose` reads back (R68). -/
def checksumBytes (order : CsumOrder) (crc : Half) : List Byte :=
  match order with
  | .highFirst => [crc.extractLsb' 8 8, crc.extractLsb' 0 8]
  | .lowFirst  => [crc.extractLsb' 0 8, crc.extractLsb' 8 8]

/-- `u8_at(o) = p[1+o]` (R135). -/
def u8At (p : List Byte) (o : Nat) (h : o + 1 < p.length) : Byte := p[o + 1]

/-- `s16_at(o)`, the bits (R134). -/
def s16At (p : List Byte) (o : Nat) (h : o + 2 < p.length) : Half := le16 p[o + 1] p[o + 2]

/-- `s32_at(o)`, the bits (R133). -/
def s32At (p : List Byte) (o : Nat) (h : o + 4 < p.length) : Word := le32 p[o + 1] p[o + 2] p[o + 3] p[o + 4]

end Sys2Proof.Machine
end

