-- ==== Sys2Proof/Machine/Checksum.lean ====
section
/-! DEFINITION. The checksum engine (spec/40_checksum.md): the bitwise algorithm of R81, which is the normative one and the one
the machine runs, and the table-driven form of R84. Both are pure functions of the bytes and of `CRC_ALG` (R80). -/

namespace Sys2Proof.Machine

/-- Bit `i` of `b` moves to bit `7-i` (R81). -/
def reflect8 (b : Byte) : Byte := b.reverse

/-- Bit `i` moves to bit `15-i` (R81). -/
def reflect16 (r : Half) : Half := r.reverse

/-- One of the eight shifts of R81. -/
def crcShift (poly reg : Half) : Half :=
  if reg.getLsbD 15 then (reg <<< 1) ^^^ poly else reg <<< 1

/-- `n` shifts. -/
def crcShifts (poly : Half) : Nat → Half → Half
  | 0, reg => reg
  | n + 1, reg => crcShifts poly n (crcShift poly reg)

/-- The loop body of R81: fold one byte into the register. -/
def crcByte (alg : CrcAlg) (reg : Half) (b : Byte) : Half :=
  crcShifts alg.poly 8 (reg ^^^ ((if alg.refin then reflect8 b else b).setWidth 16 <<< 8))

/-- `checksum16(bytes)` (R81). -/
def checksum16 (alg : CrcAlg) (bytes : List Byte) : Half :=
  let reg := bytes.foldl (crcByte alg) alg.init
  (if alg.refout then reflect16 reg else reg) ^^^ alg.xorout

/-! ### The table-driven form (R84), for `refin = refout = true` -/

/-- One shift of the reflected register: `r[0] == 1 ? (r >> 1) ^ P' : r >> 1`. -/
def tableShift (p' r : Half) : Half :=
  if r.getLsbD 0 then (r >>> 1) ^^^ p' else r >>> 1

/-- `n` shifts of the reflected register. -/
def tableShifts (p' : Half) : Nat → Half → Half
  | 0, r => r
  | n + 1, r => tableShifts p' n (tableShift p' r)

/-- `TABLE[i]` (R84). -/
def tableEntry (poly : Half) (i : Byte) : Half := tableShifts (reflect16 poly) 8 (i.setWidth 16)

/-- `reg <- (reg >> 8) ^ TABLE[(reg ^ zext_16(b))[7:0]]` (R84), over any table. -/
def tableByte (table : Byte → Half) (reg : Half) (b : Byte) : Half :=
  (reg >>> 8) ^^^ table ((reg ^^^ b.setWidth 16).extractLsb' 0 8)

/-- `checksum16(bytes)` by the table (R84), over any table. -/
def checksumByTable (table : Byte → Half) (alg : CrcAlg) (bytes : List Byte) : Half :=
  bytes.foldl (tableByte table) (reflect16 alg.init) ^^^ alg.xorout

end Sys2Proof.Machine
end

