-- ==== Sys2Proof/Machine/Flags.lean ====
section
/-! DEFINITION. The counters and the flag: the saturating increment (spec/41_framing.md R107), its two uses (spec/10_state.md
R27, R28) and the header trigger (R26). -/

namespace Sys2Proof.Machine

/-- `sat_inc(v) = (v == 2^CNT_W - 1) ? v : v + 1` (R107). -/
def satInc (c : Config) (v : Nat) : Nat := if v = c.maxCount then v else v + 1

/-- `total <- sat_inc(total)` (R27, R105). -/
def State.countCandidate (s : State) : State := { s with total := satInc s.cfg s.total }

/-- `valid <- sat_inc(valid)` (R28, R105). -/
def State.countValid (s : State) : State := { s with valid := satInc s.cfg s.valid }

/-- `if S.hdr_done == 0: emit HDR; hdr_done <- 1` (R26, R106). -/
def State.headerOnce (s : State) : State :=
  if s.hdrDone then s else { s.emit .hdr with hdrDone := true }

end Sys2Proof.Machine
end

