-- ==== Sys2Proof/Machine/Unpack.lean ====
section
/-! DEFINITION. The field unpacker (spec/42_unpacker.md) and its inverse. Pure functions; the fields are raw integers (R140). -/

namespace Sys2Proof.Machine

/-- What `unpack` answers (R130). -/
inductive Unpacked
  | record (r : Record)
  | structuralDecodeError
  deriving DecidableEq, Repr

/-- The fields of a record, at the offsets of R136 after the device-id byte (R132). -/
def recordOf (p : List Byte) (h : recBytes < p.length) : Record :=
  have h : 42 < p.length := h
  { ax := s32At p 0 (by omega)
    ay := s32At p 4 (by omega)
    az := s32At p 8 (by omega)
    wx := s32At p 12 (by omega)
    wy := s32At p 16 (by omega)
    wz := s32At p 20 (by omega)
    tax := s16At p 24 (by omega)
    tay := s16At p 26 (by omega)
    taz := s16At p 28 (by omega)
    twx := s16At p 30 (by omega)
    twy := s16At p 32 (by omega)
    twz := s16At p 34 (by omega)
    s := s16At p 36 (by omega)
    timestamp := s16At p 38 (by omega)
    status := u8At p 40 (by omega)
    number := u8At p 41 (by omega) }

/-- `unpack(p)` (R130): a structural error when fewer than 42 bytes follow the device-id byte (R131), else the record. Bytes
beyond the record are ignored (R137). -/
def unpack (p : List Byte) : Unpacked :=
  if h : p.length - 1 < recBytes then .structuralDecodeError
  else .record (recordOf p (by simp only [recBytes] at h ⊢; omega))

/-- `pack(r)` (R138): each field's bytes, least significant first, at the offsets of R136. -/
def pack (r : Record) : List Byte :=
  bytes32 r.ax ++ bytes32 r.ay ++ bytes32 r.az ++ bytes32 r.wx ++ bytes32 r.wy ++ bytes32 r.wz ++
  bytes16 r.tax ++ bytes16 r.tay ++ bytes16 r.taz ++ bytes16 r.twx ++ bytes16 r.twy ++ bytes16 r.twz ++
  bytes16 r.s ++ bytes16 r.timestamp ++ [r.status, r.number]

/-- The values of a record in the order of R139: sixteen integers, the 32-bit and 16-bit fields signed. -/
def Record.values (r : Record) : List Int :=
  [r.ax.toInt, r.ay.toInt, r.az.toInt, r.wx.toInt, r.wy.toInt, r.wz.toInt,
   r.tax.toInt, r.tay.toInt, r.taz.toInt, r.twx.toInt, r.twy.toInt, r.twz.toInt,
   r.s.toInt, r.timestamp.toInt, (r.status.toNat : Int), (r.number.toNat : Int)]

end Sys2Proof.Machine
end

