-- ==== Sys2Proof/Machine/Candidate.lean ====
section
/-! DEFINITION. BYTE.READ_CHECKSUM and the acceptance of a candidate (spec/41_framing.md R105, R106; spec/40_checksum.md R87;
the order of effects is spec/60_exceptions.md R165). -/

namespace Sys2Proof.Machine

/-- `accept()`, the WriteHeader and WritePacket phases (R106, R111): skip the record on a structural error, else emit `HDR` the
first time only and then `REC(r)`. -/
def accept (p : List Byte) (s : State) : State :=
  match unpack p with
  | .structuralDecodeError => s
  | .record r => s.headerOnce.emit (.record r)

/-- `compose(c0, c1) == checksum16(p)` (R87). -/
def checksumOk (c : Config) (c0 c1 : Byte) (p : List Byte) : Bool :=
  compose c.csumOrder c0 c1 == checksum16 c.crcAlg p

/-- The evaluation of a candidate whose payload is `p` and whose checksum bytes are `c0` and `c1` (R105). -/
def evaluate (c0 c1 : Byte) (p : List Byte) (s : State) : State :=
  let counted := { s.countCandidate with idx := 0#8 }
  if checksumOk s.cfg c0 c1 p then (accept p counted.countValid).goto St.searchSync
  else counted.resync

/-- BYTE.READ_CHECKSUM: the first checksum byte is kept in `c0`; at the second the candidate is evaluated (R105). A read of an
unwritten register or cell faults (R34). -/
def execByteReadChecksum (d : Byte) (s : State) : Result :=
  if s.checksumInRange then
    if s.idx = 0#8 then .next { s with c0 := some d, idx := 1#8 }
    else
      match s.c0, s.payload with
      | some c0, some p => .next (evaluate c0 d p s)
      | _, _ => raiseIllegalState
  else raiseIllegalState

end Sys2Proof.Machine
end

