-- ==== Sys2Proof/Machine/Eoi.lean ====
section
/-! DEFINITION. End of input in the five active states (spec/41_framing.md R108), and any token after it (R109). -/

namespace Sys2Proof.Machine

/-- EOI.SEARCH_SYNC (R108). -/
def execEoiSearchSync (s : State) : Result := .next s.printStats

/-- EOI.READ_SYNC (R108). -/
def execEoiReadSync (s : State) : Result := .next s.printStats

/-- EOI.READ_LENGTH (R108). -/
def execEoiReadLength (s : State) : Result := .next s.printStats

/-- EOI.READ_PACKET: the partial packet is dropped, not counted (R42, R108). An `idx` out of range faults first (R23, R165): R108 does
not repeat that check, and that it holds for an EOI too is log entry 17. -/
def execEoiReadPacket (s : State) : Result :=
  if s.packetInRange then .next s.printStats else raiseIllegalState

/-- EOI.READ_CHECKSUM: the partial checksum is dropped, no candidate is counted (R42, R108). An `idx` out of range faults first (R23,
R165; log entry 17). -/
def execEoiReadChecksum (s : State) : Result :=
  if s.checksumInRange then .next s.printStats else raiseIllegalState

/-- ANY.EXITING: no effect; only reset leaves EXITING (R109). -/
def execAnyExiting (s : State) : Result := .next s

end Sys2Proof.Machine
end

