-- ==== Sys2Proof/Machine/Illegal.lean ====
section
/-! DEFINITION. A token in a reserved state (spec/41_framing.md R110; spec/60_exceptions.md R164). -/

namespace Sys2Proof.Machine

/-- ILLEGAL.ST5: `raise Fault(IllegalState)` (R110). -/
def execIllegalSt5 (_s : State) : Result := raiseIllegalState

/-- ILLEGAL.ST6: `raise Fault(IllegalState)` (R110). -/
def execIllegalSt6 (_s : State) : Result := raiseIllegalState

end Sys2Proof.Machine
end

