-- ==== Sys2Proof/Machine/Packet.lean ====
section
/-! DEFINITION. BYTE.READ_PACKET (spec/41_framing.md R104, R110). -/

namespace Sys2Proof.Machine

/-- The end of the read of `PLEN` bytes (R104): the device id in `pbuf[0]` is tested after the last byte is stored. A read of an
unwritten cell faults (R34). -/
def closePacket (s : State) : Result :=
  match s.pbuf.read 0 with
  | none => raiseIllegalState
  | some id =>
    if id = s.cfg.deviceId then .next ({ s with idx := 0#8 }.goto St.readChecksum)
    else .next { s with idx := 0#8 }.resync

/-- BYTE.READ_PACKET: store one payload byte; after the last one, check the device id (R104). -/
def execByteReadPacket (d : Byte) (s : State) : Result :=
  if s.packetInRange then
    if s.idx.toNat + 1 < s.cfg.plen then .next { s.memWrite s.idx.toNat d with idx := s.idx + 1#8 }
    else closePacket (s.memWrite s.idx.toNat d)
  else raiseIllegalState

end Sys2Proof.Machine
end

