-- ==== Sys2Proof/Machine/Search.lean ====
section
/-! DEFINITION. The BYTE rows of the three states that read one byte (spec/41_framing.md R101-R103). -/

namespace Sys2Proof.Machine

/-- BYTE.SEARCH_SYNC: scan for the first sync byte (R101). -/
def execByteSearchSync (d : Byte) (s : State) : Result :=
  if d = s.cfg.sync then .next (s.goto St.readSync) else .next (s.goto St.searchSync)

/-- BYTE.READ_SYNC: require the second consecutive sync byte; the mismatching byte is not rescanned (R102). -/
def execByteReadSync (d : Byte) (s : State) : Result :=
  if d = s.cfg.sync then .next (s.goto St.readLength) else .next s.resync

/-- BYTE.READ_LENGTH: check the length byte; on success open a new payload (R103). -/
def execByteReadLength (d : Byte) (s : State) : Result :=
  if d = s.cfg.lenConst then .next ({ s with idx := 0#8 }.goto St.readPacket) else .next s.resync

end Sys2Proof.Machine
end

