-- ==== Sys2Proof/Machine/Dispatch.lean ====
section
/-! DEFINITION. One arm per row of the dispatch map (spec/30_encoding.md R63). -/

namespace Sys2Proof.Machine

def exec (i : Instr) (s : State) : Host.Outcome State Fault Refusal :=
  match i with
  | .byteSearchSync d => Sys2Proof.Machine.execByteSearchSync d s
  | .eoiSearchSync _ => Sys2Proof.Machine.execEoiSearchSync s
  | .byteReadSync d => Sys2Proof.Machine.execByteReadSync d s
  | .eoiReadSync _ => Sys2Proof.Machine.execEoiReadSync s
  | .byteReadLength d => Sys2Proof.Machine.execByteReadLength d s
  | .eoiReadLength _ => Sys2Proof.Machine.execEoiReadLength s
  | .byteReadPacket d => Sys2Proof.Machine.execByteReadPacket d s
  | .eoiReadPacket _ => Sys2Proof.Machine.execEoiReadPacket s
  | .byteReadChecksum d => Sys2Proof.Machine.execByteReadChecksum d s
  | .eoiReadChecksum _ => Sys2Proof.Machine.execEoiReadChecksum s
  | .illegalSt5 _ _ => Sys2Proof.Machine.execIllegalSt5 s
  | .illegalSt6 _ _ => Sys2Proof.Machine.execIllegalSt6 s
  | .anyExiting _ _ => Sys2Proof.Machine.execAnyExiting s

end Sys2Proof.Machine
end

