-- ==== Sys2Proof/Machine/Step.lean ====
section
/-! DEFINITION. One step (spec/41_framing.md R100): the host's next move, and the block's response to it. -/

namespace Sys2Proof.Machine

/-- Run one token (R100). A configuration outside the legal ranges has no run (R8, R100; log entry 9). -/
def runToken (t : Token) (s : State) : Result :=
  if s.cfg.wf then exec (s.dispatch t) s else .refused .illegalConfiguration

/-- One step: reset has priority over every token (R100, R181); with no token presented the block waits (R188); else the token is
consumed and its rule runs. The host's move is taken from `input` (log entry 2). -/
def step (s : State) : Host.Outcome State Fault Refusal :=
  match s.input with
  | [] => wait s
  | .pause :: rest => wait { s with input := rest }
  | .reset cfg _ :: rest => takeReset cfg { s with input := rest }
  | .present t :: rest => runToken t { s with input := rest }

/-- `s` with the dispatch key `w` set up for the next step: the key's `st` in the state register and its token as the host's next
move (log entry 8). -/
def State.withFetchWord (s : State) (_nbits w : Nat) : State :=
  { s with st := Key.st (BitVec.ofNat 12 w), input := .present (BitVec.ofNat 9 w) :: s.input }

end Sys2Proof.Machine
end

