-- ==== Sys2Proof/Machine/Conditions.lean ====
section
/-! DEFINITION. The conditions of spec/60_exceptions.md R160, as a function of the instruction and of the state before the step.
The hardware has no cause register, so no field of State holds them (log entry 14). -/

namespace Sys2Proof.Machine

/-- The conditions (R160). -/
inductive Condition
  | none
  | endOfInput
  | mismatchSync2
  | mismatchLength
  | mismatchDeviceId
  | mismatchChecksum
  | structuralDecodeError
  | illegalState
  deriving DecidableEq, Repr

/-- The codes of R160. -/
def Condition.code : Condition → BitVec 3
  | .none                  => 0#3
  | .endOfInput            => 1#3
  | .mismatchSync2         => 2#3
  | .mismatchLength        => 3#3
  | .mismatchDeviceId      => 4#3
  | .mismatchChecksum      => 5#3
  | .structuralDecodeError => 6#3
  | .illegalState          => 7#3

/-- FramingMismatch: codes 2 to 5 (R162). -/
def Condition.isMismatch (c : Condition) : Bool := decide (2 ≤ c.code.toNat) && decide (c.code.toNat ≤ 5)

/-- The condition of BYTE.READ_PACKET (R104, R110): the range check comes first (R165). -/
def packetCondition (d : Byte) (s : State) : Condition :=
  if s.packetInRange then
    if s.idx.toNat + 1 < s.cfg.plen then .none
    else
      match (s.memWrite s.idx.toNat d).pbuf.read 0 with
      | Option.none => .illegalState
      | some id => if id = s.cfg.deviceId then .none else .mismatchDeviceId
  else .illegalState

/-- The condition of BYTE.READ_CHECKSUM (R105, R106, R110): a mismatch and a structural error exclude each other (R165). -/
def checksumCondition (d : Byte) (s : State) : Condition :=
  if s.checksumInRange then
    if s.idx = 0#8 then .none
    else
      match s.c0, s.payload with
      | some c0, some p =>
        if checksumOk s.cfg c0 d p then
          match unpack p with
          | .record _ => .none
          | .structuralDecodeError => .structuralDecodeError
        else .mismatchChecksum
      | _, _ => .illegalState
  else .illegalState

/-- The condition that running `i` in `s` raises (R160). For an EOI with `idx` out of range it is the fault (R165; log entry 17). -/
def condition (i : Instr) (s : State) : Condition :=
  match i with
  | .byteSearchSync _   => .none
  | .byteReadSync d     => if d = s.cfg.sync then .none else .mismatchSync2
  | .byteReadLength d   => if d = s.cfg.lenConst then .none else .mismatchLength
  | .byteReadPacket d   => packetCondition d s
  | .byteReadChecksum d => checksumCondition d s
  | .eoiSearchSync _    => .endOfInput
  | .eoiReadSync _      => .endOfInput
  | .eoiReadLength _    => .endOfInput
  | .eoiReadPacket _    => if s.packetInRange then .endOfInput else .illegalState
  | .eoiReadChecksum _  => if s.checksumInRange then .endOfInput else .illegalState
  | .illegalSt5 _ _     => .illegalState
  | .illegalSt6 _ _     => .illegalState
  | .anyExiting _ _     => .none

end Sys2Proof.Machine
end

