-- ==== Sys2Proof/Machine/Status.lean ====
section
/-! DEFINITION. What the host can see: the status port (spec/10_state.md R32) and the event kind codes (spec/30_encoding.md R65). -/

namespace Sys2Proof.Machine

/-- The read-only status port (R32). It does not show `pbuf` or `c0`. -/
structure StatusPort where
  st      : BitVec 3
  idx     : BitVec 8
  hdrDone : Bool
  total   : Nat
  valid   : Nat
  deriving DecidableEq, Repr

/-- Between steps each signal equals the state field of the same name (R32, R185). -/
def State.statusPort (s : State) : StatusPort :=
  { st := s.st, idx := s.idx, hdrDone := s.hdrDone, total := s.total, valid := s.valid }

/-- The kind code `E[1:0]` of what leaves the output port; `none` is no event (R65). -/
def kindCode : Option Event → BitVec 2
  | none => 0b00#2
  | some .hdr => 0b01#2
  | some (.record _) => 0b10#2
  | some (.stats _ _ _) => 0b11#2

end Sys2Proof.Machine
end

