-- ==== Sys2Proof/Machine/Stream.lean ====
section
/-! DEFINITION. Token streams and their macros (spec/30_encoding.md R67, R68), as abstract syntax: an item is what one piece of the
spec's notation stands for, and `assemble` is the list of host moves it expands to. Its text is in Assembler.lean. -/

namespace Sys2Proof.Machine

/-- The bytes of `FRAME(rb)` with the checksum altered by `flip` (R68). -/
def frameWith (flip : Half) (c : Config) (rb : List Byte) : List Byte :=
  [c.sync, c.sync, c.lenConst, c.deviceId] ++ rb ++
    checksumBytes c.csumOrder (checksum16 c.crcAlg (c.deviceId :: rb) ^^^ flip)

/-- `FRAME(rb)` (R68), for `rb` of exactly `PLEN - 1` bytes. -/
def frame (c : Config) (rb : List Byte) : List Byte := frameWith 0x0000#16 c rb

/-- `FRAME_REC(r)` (R68). -/
def frameRec (c : Config) (r : Record) : List Byte := frame c (pack r)

/-- `BADCRC_FRAME(rb)`: the checksum is `crc ^ 0x0001` (R68). -/
def badCrcFrame (c : Config) (rb : List Byte) : List Byte := frameWith 0x0001#16 c rb

/-- One piece of the notation of R67 and R68. -/
inductive StreamItem
  | byte (d : Byte)
  /-- `NN*k` -/
  | copies (d : Byte) (k : Nat)
  | noise (bs : List Byte)
  | frame (rb : List Byte)
  | frameRec (r : Record)
  | badCrcFrame (rb : List Byte)
  | eoi
  /-- `RESET`: an assertion of the reset input, not a token (R67). -/
  | reset
  deriving DecidableEq, Repr

/-- The host moves that present these bytes, one per step (R61, R186). -/
def presentBytes (bs : List Byte) : List HostMove := bs.map fun b => .present (Token.byte b)

/-- The host moves of one item under the configuration `c`. -/
def StreamItem.moves (c : Config) : StreamItem → List HostMove
  | .byte d => presentBytes [d]
  | .copies d k => presentBytes (List.replicate k d)
  | .noise bs => presentBytes bs
  | .frame rb => presentBytes (Machine.frame c rb)
  | .frameRec r => presentBytes (Machine.frameRec c r)
  | .badCrcFrame rb => presentBytes (Machine.badCrcFrame c rb)
  | .eoi => [.present Token.eoi]
  | .reset => [.reset c none]

/-- The host moves of a stream, in order. -/
def assemble (c : Config) (items : List StreamItem) : List HostMove := items.flatMap (StreamItem.moves c)

end Sys2Proof.Machine
end

