-- ==== Sys2Proof/Safety.lean ====
section
/-! DEFINITION. The terms the statements use: several steps, the invariant of the block, the states a run reaches, the shape of a
run's events, and the counts of evaluated and matching candidates. -/

namespace Sys2Proof.Machine

/-- `n` steps, stopping at the first fault or refusal. -/
def steps : Nat → State → Result
  | 0, s => .next s
  | n + 1, s =>
    match step s with
    | .next t => steps n t
    | .fault f => .fault f
    | .refused r => .refused r

/-- `s` with the host about to present the bytes `bs` and then to do `rest`. -/
def State.fed (s : State) (bs : List Byte) (rest : List HostMove) : State :=
  { s with input := presentBytes bs ++ rest }

/-- The move is an assertion of RESET. -/
def HostMove.isReset : HostMove → Bool
  | .pause => false
  | .present _ => false
  | .reset _ _ => true

/-- The states that are not terminal or reserved (R21). -/
def State.active (s : State) : Bool := decide (s.st.toNat ≤ 4)

/-- What every state reachable from reset satisfies (R22, R23, R24, R29, R34, and the payload buffer's canonical form). -/
structure Inv (s : State) : Prop where
  /-- The configuration is legal (R8). -/
  cfgLegal : s.cfg.wf = true
  /-- The reserved encodings are never latched (R22). -/
  stLatched : s.st ≠ St.writePacket ∧ s.st ≠ St.printStats
  /-- In READ_PACKET, `0 <= idx <= PLEN-1` (R23). -/
  idxPacket : s.st = St.readPacket → s.idx.toNat < s.cfg.plen
  /-- In READ_CHECKSUM, `idx` is 0 or 1 (R23). -/
  idxChecksum : s.st = St.readChecksum → s.idx.toNat ≤ 1
  /-- Elsewhere `idx` is 0 (R23). -/
  idxElsewhere : s.st ≠ St.readPacket → s.st ≠ St.readChecksum → s.idx = 0#8
  /-- The payload buffer is in canonical form. -/
  pbufCanonical : s.pbuf.wf = true
  /-- It has the cells `0 .. PLEN-1` only (R24). -/
  pbufCells : ∀ c ∈ s.pbuf, c.1 < s.cfg.plen
  /-- In READ_PACKET the cells below `idx` are written (R34). -/
  packetWritten : s.st = St.readPacket → ∀ a, a < s.idx.toNat → (s.pbuf.read a).isSome
  /-- In READ_CHECKSUM every cell is written (R34). -/
  payloadWritten : s.st = St.readChecksum → ∀ a, a < s.cfg.plen → (s.pbuf.read a).isSome
  /-- In READ_CHECKSUM the device id has been checked (R104). -/
  deviceChecked : s.st = St.readChecksum → s.pbuf.read 0 = some s.cfg.deviceId
  /-- After the first checksum byte, `c0` is written (R34). -/
  c0Written : s.st = St.readChecksum → s.idx = 1#8 → s.c0.isSome
  /-- `valid <= total` (R29). -/
  validLeTotal : s.valid ≤ s.total
  /-- `total` is a `CNT_W`-bit value (R27). -/
  totalFits : s.total ≤ s.cfg.maxCount

/-- The states a run can reach: from the reset state of any legal configuration, under any host (its moves are arbitrary). -/
inductive Reachable : State → Prop
  | reset (cfg : Config) (moves : List HostMove) (h : cfg.wf = true) :
      Reachable { State.reset with cfg := cfg, input := moves }
  | step (s t : State) (hs : Reachable s) (h : step s = .next t) : Reachable t

/-- The events of a run so far (R114, R189): `HDR` and the accepted records when there is one, and the summary once the run has
ended. -/
def EventShape (s : State) : Prop :=
  ∃ rs : List Record,
    s.events = (if rs = [] then [] else .hdr :: rs.map .record) ++
      (if s.st = St.exiting then [.stats s.total s.valid (s.total - s.valid)] else []) ∧
    s.hdrDone = !rs.isEmpty

/-- The next step consumes a second checksum byte `d` (R105, R115). -/
def State.secondChecksumByte (s : State) : Option Byte :=
  match s.input with
  | .present t :: _ => if s.st = St.readChecksum ∧ s.idx = 1#8 ∧ t.k = 0#1 then some t.d else none
  | _ => none

/-- The next step evaluates a candidate (R27, R115). -/
def State.evaluatesNext (s : State) : Bool := s.secondChecksumByte.isSome

/-- The next step evaluates a candidate whose checksum test (R87) holds (R28, R115). -/
def State.matchesNext (s : State) : Bool :=
  match s.secondChecksumByte, s.c0, s.payload with
  | some d, some c0, some p => checksumOk s.cfg c0 d p
  | _, _, _ => false

/-- How many of the next `n` steps start in a state with the property `q`. -/
def countSteps (q : State → Bool) : Nat → State → Nat
  | 0, _ => 0
  | n + 1, s =>
    match step s with
    | .next t => (if q s then 1 else 0) + countSteps q n t
    | _ => 0

end Sys2Proof.Machine
end

