-- ==== Sys2Proof/Certificates/Slice0/Obligations.lean ====
section
/-! DEFINITION. The statements for the provers. Each says in its docstring which rule of spec/ it formalises, or that it rests on a
choice of the model. Statements are about every state unless they say otherwise. -/

open Sys2Proof Sys2Proof.Machine

/-! ## Reset, configuration, input -/

/-- R34 (the table) and the treatment of unwritten cells: what the state right after reset holds, and that a meaning which would read
an unwritten `pbuf` cell or the unwritten `c0` faults. That the fault is IllegalState is log entry 5. -/
def Obligations.ResetStateAndUnwrittenReads : Prop :=
  (State.reset.st = St.searchSync ∧ State.reset.idx = 0#8 ∧ State.reset.hdrDone = false ∧ State.reset.total = 0 ∧
    State.reset.valid = 0 ∧ State.reset.c0 = none ∧ ∀ a, State.reset.pbuf.read a = none) ∧
  (∀ (d : Byte) (s : State), s.idx = 1#8 → s.c0 = none → exec (.byteReadChecksum d) s = .fault .illegalState) ∧
  (∀ (d : Byte) (s : State) (a : Nat), s.idx = 1#8 → a < s.cfg.plen → s.pbuf.read a = none →
    exec (.byteReadChecksum d) s = .fault .illegalState) ∧
  (∀ (d : Byte) (s : State), 0 < s.idx.toNat → s.idx.toNat + 1 = s.cfg.plen → s.pbuf.read 0 = none →
    exec (.byteReadPacket d) s = .fault .illegalState)

/-- R180, R181: a step with RESET asserted sets every field to its reset value, from every state, emits no event (the new run's list of
events is empty, log entry 3) and takes no token: the token held on the port leaves no trace, and later moves are untouched. The new
run's configuration is the one driven with the reset (log entry 1). -/
def Obligations.ResetTakesPriorityOverAnyToken : Prop :=
  ∀ (s : State) (cfg : Config) (held : Option Token) (rest : List HostMove),
    cfg.wf = true → s.input = .reset cfg held :: rest →
    ∃ t, step s = .next t ∧ t.st = St.searchSync ∧ t.idx = 0#8 ∧ t.hdrDone = false ∧ t.total = 0 ∧ t.valid = 0 ∧
      t.c0 = none ∧ (∀ a, t.pbuf.read a = none) ∧ t.events = [] ∧ t.cfg = cfg ∧ t.input = rest

/-- R8: a configuration with `LEN_CONST < 3` has no run, and a reset into one starts none; `LEN_CONST` from 3 to 44 is legal (with
`CNT_W >= 1`), gives `PLEN - 1 < REC_BYTES`, and every frame that passes its checksum takes the structural-error path. That "no run" is a refusal of
every step under it, and of the reset step that drives it, is log entry 9; the configuration in the state is log entry 1. -/
def Obligations.ShortLengthConstants : Prop :=
  (∀ s : State, s.cfg.lenConst.toNat < 3 → (∀ cfg held rest, s.input ≠ .reset cfg held :: rest) →
    step s = .refused .illegalConfiguration) ∧
  (∀ (s : State) (cfg : Config) (held : Option Token) (rest : List HostMove),
    cfg.lenConst.toNat < 3 → s.input = .reset cfg held :: rest → step s = .refused .illegalConfiguration) ∧
  (∀ cfg : Config, 3 ≤ cfg.lenConst.toNat → cfg.lenConst.toNat ≤ 44 → 1 ≤ cfg.cntW →
    cfg.wf = true ∧ cfg.plen - 1 < recBytes) ∧
  (∀ (d c0 : Byte) (p : List Byte) (s : State), s.cfg.lenConst.toNat ≤ 44 → s.idx = 1#8 → s.c0 = some c0 →
    s.payload = some p → compose s.cfg.csumOrder c0 d = checksum16 s.cfg.crcAlg p →
    condition (.byteReadChecksum d) s = .structuralDecodeError)

/-- R7: the derived constants, and the 48 bytes of a default frame. -/
def Obligations.DerivedConstants : Prop :=
  (∀ cfg : Config, cfg.wf = true → cfg.plen = cfg.lenConst.toNat - 2 ∧ 1 ≤ cfg.plen ∧ cfg.plen ≤ 253) ∧
  recBytes = 42 ∧ Config.default.plen = 43 ∧ Config.default.plen - 1 = recBytes ∧
  (∀ rb : List Byte, rb.length = Config.default.plen - 1 → (frame Config.default rb).length = 48 ∧
    ∃ k0 k1, frame Config.default rb = [0xAA#8, 0xAA#8] ++ [0x2D#8] ++ (0x87#8 :: rb) ++ [k0, k1])

/-- R6, R184: no step but a reset changes the configuration, and a reset takes the one driven with it. Carrying the configuration
beside the state is log entry 1. -/
def Obligations.ConfigurationFixedForARun : Prop :=
  ∀ s t : State, step s = .next t →
    (∀ cfg held rest, s.input = .reset cfg held :: rest → t.cfg = cfg) ∧
    ((∀ cfg held rest, s.input ≠ .reset cfg held :: rest) → t.cfg = s.cfg)

/-- R12, R41 in the model's form: every step takes exactly the host's next move, so a presented byte is consumed once and never seen
again; a step with no move left takes none. The list of moves is log entry 2. -/
def Obligations.EachStepTakesOneMove : Prop :=
  ∀ s t : State, step s = .next t → t.input = s.input.tail

/-- R188: while the host presents nothing the state is unchanged, for any number of steps; a pause is taken and changes nothing else.
The list of moves is log entry 2. -/
def Obligations.WaitingLeavesTheStateUnchanged : Prop :=
  (∀ (n : Nat) (s : State), s.cfg.wf = true → s.input = [] → steps n s = .next s) ∧
  (∀ (n : Nat) (s : State) (rest : List HostMove), s.cfg.wf = true → s.input = List.replicate n .pause ++ rest →
    steps n s = .next { s with input := rest })

/-! ## Encoding -/

/-- The decoder reads what the encoder wrote, for every instruction with every operand, and every key is the key of the instruction it
decodes to; the same through bytes and through table words (their layout is log entry 7); other bytes are refused by name. -/
def Obligations.DecodeAndEncodeAgree : Prop :=
  (∀ i : Instr, decodeKey (encode i) = i) ∧
  (∀ k : Key, encode (decodeKey k) = k) ∧
  (∀ i : Instr, decode (encodeBytes i) = .ok i) ∧
  (∀ (i : Instr) (nbits : Nat), nbits ≤ 16 → decodeTableWord nbits (encode i).toNat = some i) ∧
  (∀ bytes : List Byte, bytes.length ≠ 2 → decode bytes = .error .notTwoBytes) ∧
  (∀ low high : Byte, 16 ≤ high.toNat → decode [low, high] = .error .widerThanKey)

/-- R63: the fields of a key, the thirteen rows, and that every one of the 4096 keys fits exactly one of them, the row of the
instruction it decodes to. -/
def Obligations.EveryKeyFitsExactlyOneRow : Prop :=
  (∀ (st : BitVec 3) (t : Token), Key.st (dispatchKey st t) = st ∧ Key.k (dispatchKey st t) = Token.k t ∧
    Key.d (dispatchKey st t) = Token.d t) ∧
  (opcodeRows.map fun r => (r.mnemonic, r.pattern, r.mask)) =
    [("BYTE.SEARCH_SYNC", 0x000#12, 0xF00#12), ("EOI.SEARCH_SYNC", 0x100#12, 0xF00#12), ("BYTE.READ_SYNC", 0x200#12, 0xF00#12),
     ("EOI.READ_SYNC", 0x300#12, 0xF00#12), ("BYTE.READ_LENGTH", 0x400#12, 0xF00#12), ("EOI.READ_LENGTH", 0x500#12, 0xF00#12),
     ("BYTE.READ_PACKET", 0x600#12, 0xF00#12), ("EOI.READ_PACKET", 0x700#12, 0xF00#12), ("BYTE.READ_CHECKSUM", 0x800#12, 0xF00#12),
     ("EOI.READ_CHECKSUM", 0x900#12, 0xF00#12), ("ILLEGAL.ST5", 0xA00#12, 0xE00#12), ("ILLEGAL.ST6", 0xC00#12, 0xE00#12),
     ("ANY.EXITING", 0xE00#12, 0xE00#12)] ∧
  ∀ k : Key, (opcodeRows.filter fun r => r.fits k).map OpcodeRow.mnemonic = [(decodeKey k).mnemonic] ∧
    (decodeKey k).st = Key.st k

/-- R60: the two fields of a token. -/
def Obligations.TokenFields : Prop :=
  (∀ d : Byte, Token.k (Token.byte d) = 0#1 ∧ Token.d (Token.byte d) = d) ∧
  (∀ d : Byte, Token.k (Token.eoiWith d) = 1#1 ∧ Token.d (Token.eoiWith d) = d) ∧
  (∀ t : Token, (Token.k t = 0#1 ∧ t = Token.byte (Token.d t)) ∨ (Token.k t = 1#1 ∧ t = Token.eoiWith (Token.d t)))

/-- R62: the data bits of an EOI token are ignored, in every state: all 256 encodings have the effect of the one with `D = 0`. -/
def Obligations.EoiDataBitsAreIgnored : Prop :=
  Token.eoi = 0x100#9 ∧
  ∀ (s : State) (d : Byte) (rest : List HostMove),
    step { s with input := .present (Token.eoiWith d) :: rest } = step { s with input := .present Token.eoi :: rest }

/-- One key of every row, written out from R63's columns. -/
def Obligations.WrittenOutKeysDecode : Prop :=
  decodeKey 0b000010101010#12 = .byteSearchSync 0xAA#8 ∧ decodeKey 0b000100000000#12 = .eoiSearchSync 0x00#8 ∧
  decodeKey 0b001010101010#12 = .byteReadSync 0xAA#8 ∧ decodeKey 0b001101011010#12 = .eoiReadSync 0x5A#8 ∧
  decodeKey 0b010000101101#12 = .byteReadLength 0x2D#8 ∧ decodeKey 0b010100000000#12 = .eoiReadLength 0x00#8 ∧
  decodeKey 0b011010000111#12 = .byteReadPacket 0x87#8 ∧ decodeKey 0b011100000001#12 = .eoiReadPacket 0x01#8 ∧
  decodeKey 0b100011100100#12 = .byteReadChecksum 0xE4#8 ∧ decodeKey 0b100111111111#12 = .eoiReadChecksum 0xFF#8 ∧
  decodeKey 0b101100110011#12 = .illegalSt5 1#1 0x33#8 ∧ decodeKey 0b110011001100#12 = .illegalSt6 0#1 0xCC#8 ∧
  decodeKey 0b111100000000#12 = .anyExiting 1#1 0x00#8

/-- R100, for a token: the step forms the key of the state register and the token and runs the one instruction it decodes to, which is
one of that state's rows, on the state with the token consumed; it never refuses a token under a legal configuration. -/
def Obligations.StepRunsTheDecodedInstruction : Prop :=
  ∀ (s : State) (tok : Token) (rest : List HostMove), s.cfg.wf = true → s.input = .present tok :: rest →
    step s = exec (decodeKey (dispatchKey s.st tok)) { s with input := rest } ∧
    (decodeKey (dispatchKey s.st tok)).runsIn s.st = true ∧
    ∀ r, step s ≠ .refused r

/-! ## The rules of the dispatch rows -/

/-- R101, BYTE.SEARCH_SYNC: always completes; only `st` is written. A byte that is not `SYNC` leaves the state unchanged. -/
def Obligations.SearchSyncScansForSync : Prop :=
  ∀ (d : Byte) (s : State),
    encode (.byteSearchSync d) &&& 0xF00#12 = 0x000#12 ∧
    condition (.byteSearchSync d) s = .none ∧
    exec (.byteSearchSync d) s =
      .next { s with st := if d = s.cfg.sync then St.readSync else St.searchSync } ∧
    (s.st = St.searchSync → d ≠ s.cfg.sync → exec (.byteSearchSync d) s = .next s)

/-- R102, BYTE.READ_SYNC: always completes; only `st` is written; the mismatching byte is consumed and not rescanned, so
`SYNC x SYNC SYNC` with `x` another byte ends in READ_LENGTH. -/
def Obligations.ReadSyncRequiresASecondSync : Prop :=
  (∀ (d : Byte) (s : State),
    encode (.byteReadSync d) &&& 0xF00#12 = 0x200#12 ∧
    condition (.byteReadSync d) s = (if d = s.cfg.sync then .none else .mismatchSync2) ∧
    exec (.byteReadSync d) s =
      .next { s with st := if d = s.cfg.sync then St.readLength else St.searchSync }) ∧
  (∀ (s : State) (x : Byte) (rest : List HostMove), s.cfg.wf = true → s.st = St.searchSync → x ≠ s.cfg.sync →
    steps 4 (s.fed [s.cfg.sync, x, s.cfg.sync, s.cfg.sync] rest) = .next { s with st := St.readLength, input := rest })

/-- R103, BYTE.READ_LENGTH: always completes; on success `idx` is 0 and `st` READ_PACKET, else only `st` is written; a third sync byte
is a length mismatch when `SYNC` and `LEN_CONST` differ. The buffer keeps the previous packet's bytes. -/
def Obligations.ReadLengthOpensAPayload : Prop :=
  ∀ (d : Byte) (s : State),
    encode (.byteReadLength d) &&& 0xF00#12 = 0x400#12 ∧
    (d = s.cfg.lenConst → condition (.byteReadLength d) s = .none ∧
      exec (.byteReadLength d) s = .next { s with idx := 0#8, st := St.readPacket }) ∧
    (d ≠ s.cfg.lenConst → condition (.byteReadLength d) s = .mismatchLength ∧
      exec (.byteReadLength d) s = .next { s with st := St.searchSync }) ∧
    (d = s.cfg.sync → s.cfg.sync ≠ s.cfg.lenConst →
      exec (.byteReadLength d) s = .next { s with st := St.searchSync })

/-- R104, BYTE.READ_PACKET: faults when `idx` is out of range; else stores the byte at `idx` and nowhere else; before the last byte
`idx` grows by one and `st` stays; at the last byte `idx` is 0 and the device id in `pbuf[0]`, read after the store, chooses the
state. It completes whenever the id cell it reads is written (or is the one it writes). -/
def Obligations.ReadPacketStoresAndChecksTheId : Prop :=
  ∀ (d : Byte) (s : State),
    encode (.byteReadPacket d) &&& 0xF00#12 = 0x600#12 ∧
    (s.cfg.plen ≤ s.idx.toNat → exec (.byteReadPacket d) s = .fault .illegalState) ∧
    (s.idx.toNat + 1 < s.cfg.plen → ∃ t, exec (.byteReadPacket d) s = .next t ∧
      t = { s with idx := t.idx, pbuf := t.pbuf } ∧ t.idx.toNat = s.idx.toNat + 1 ∧
      (∀ a, t.pbuf.read a = if a = s.idx.toNat then some d else s.pbuf.read a) ∧
      condition (.byteReadPacket d) s = .none) ∧
    (∀ id, s.idx.toNat + 1 = s.cfg.plen → (if s.idx.toNat = 0 then id = d else s.pbuf.read 0 = some id) →
      ∃ t, exec (.byteReadPacket d) s = .next t ∧
        t = { s with st := t.st, idx := 0#8, pbuf := t.pbuf } ∧
        (∀ a, t.pbuf.read a = if a = s.idx.toNat then some d else s.pbuf.read a) ∧
        (id = s.cfg.deviceId → t.st = St.readChecksum ∧ condition (.byteReadPacket d) s = .none) ∧
        (id ≠ s.cfg.deviceId → t.st = St.searchSync ∧ condition (.byteReadPacket d) s = .mismatchDeviceId))

/-- R105 with R106 and R87, BYTE.READ_CHECKSUM: faults when `idx` is out of range; the first byte goes to `c0`; the second evaluates
the candidate whose payload `p` is the bytes of `pbuf[0..PLEN-1]`. `total` is incremented either way; on a match also `valid`, and then
the record is skipped on a structural error, else emitted, with `HDR` before it the first time. It completes whenever `c0` and the
payload are written, and writes nothing but the fields named. -/
def Obligations.ReadChecksumEvaluatesTheCandidate : Prop :=
  ∀ (d : Byte) (s : State),
    encode (.byteReadChecksum d) &&& 0xF00#12 = 0x800#12 ∧
    (1 < s.idx.toNat → exec (.byteReadChecksum d) s = .fault .illegalState) ∧
    (s.idx = 0#8 → exec (.byteReadChecksum d) s = .next { s with c0 := some d, idx := 1#8 } ∧
      condition (.byteReadChecksum d) s = .none) ∧
    (∀ (c0 : Byte) (p : List Byte), s.idx = 1#8 → s.c0 = some c0 → p.length = s.cfg.plen →
      (∀ a, a < s.cfg.plen → s.pbuf.read a = p[a]?) →
      ∃ t, exec (.byteReadChecksum d) s = .next t ∧
        t = { s with st := St.searchSync, idx := 0#8, total := satInc s.cfg s.total, valid := t.valid,
                     hdrDone := t.hdrDone, events := t.events } ∧
        (compose s.cfg.csumOrder c0 d ≠ checksum16 s.cfg.crcAlg p →
          t.valid = s.valid ∧ t.hdrDone = s.hdrDone ∧ t.events = s.events ∧
          condition (.byteReadChecksum d) s = .mismatchChecksum) ∧
        (compose s.cfg.csumOrder c0 d = checksum16 s.cfg.crcAlg p →
          t.valid = satInc s.cfg s.valid ∧
          (s.cfg.plen - 1 < 42 → t.hdrDone = s.hdrDone ∧ t.events = s.events ∧
            condition (.byteReadChecksum d) s = .structuralDecodeError) ∧
          (42 ≤ s.cfg.plen - 1 → ∃ r, unpack p = .record r ∧ t.hdrDone = true ∧
            t.events = s.events ++ (if s.hdrDone then [.record r] else [.hdr, .record r]) ∧
            condition (.byteReadChecksum d) s = .none)))

/-- R107: the counters saturate and never wrap. -/
def Obligations.CountersSaturate : Prop :=
  ∀ cfg : Config, cfg.maxCount + 1 = 2 ^ cfg.cntW ∧ satInc cfg (2 ^ cfg.cntW - 1) = 2 ^ cfg.cntW - 1 ∧
    ∀ v, v < 2 ^ cfg.cntW - 1 → satInc cfg v = v + 1 ∧ satInc cfg v < 2 ^ cfg.cntW

/-- The five EOI rows, at every value of the ignored data bits. With `idx` in the range of its state each completes with R108's effect:
it emits `STATS` with the two counters and their difference modulo `2^CNT_W`, which is `total - valid` where the counters are
`CNT_W`-bit values in order; `idx` is 0 and `st` EXITING; nothing else is written. In READ_PACKET and READ_CHECKSUM an `idx` out of
range faults first: that the range check of R23 and R165 holds for an EOI, where R108 does not repeat it, is log entry 17. -/
def Obligations.EndOfInputPrintsStats : Prop :=
  ∀ (d : Byte) (s : State) (i : Instr),
    i ∈ [Instr.eoiSearchSync d, .eoiReadSync d, .eoiReadLength d, .eoiReadPacket d, .eoiReadChecksum d] →
    encode i &&& 0xF00#12 ∈ [0x100#12, 0x300#12, 0x500#12, 0x700#12, 0x900#12] ∧
    ((i = .eoiReadPacket d → s.idx.toNat < s.cfg.plen) → (i = .eoiReadChecksum d → s.idx.toNat ≤ 1) →
      condition i s = .endOfInput ∧
      ∃ w : Nat,
        exec i s = .next { s with st := St.exiting, idx := 0#8, events := s.events ++ [.stats s.total s.valid w] } ∧
        (w : Int) = ((s.total : Int) - (s.valid : Int)) % (2 : Int) ^ s.cfg.cntW ∧
        (s.valid ≤ s.total → s.total < 2 ^ s.cfg.cntW → w = s.total - s.valid)) ∧
    ((i = .eoiReadPacket d ∧ s.cfg.plen ≤ s.idx.toNat) ∨ (i = .eoiReadChecksum d ∧ 1 < s.idx.toNat) →
      condition i s = .illegalState ∧ exec i s = .fault .illegalState)

/-- R109: ANY.EXITING completes and changes nothing; a run in EXITING consumes every later token with no effect and no event, and only
a reset leaves it. -/
def Obligations.ExitingAbsorbsEveryToken : Prop :=
  (∀ (k : BitVec 1) (d : Byte) (s : State),
    encode (.anyExiting k d) &&& 0xE00#12 = 0xE00#12 ∧ condition (.anyExiting k d) s = .none ∧
    exec (.anyExiting k d) s = .next s) ∧
  (∀ (n : Nat) (s : State), s.cfg.wf = true → s.st = St.exiting → (∀ m ∈ s.input, m.isReset = false) →
    steps n s = .next { s with input := s.input.drop n })

/-- R110: ILLEGAL.ST5, ILLEGAL.ST6 and an `idx` out of range raise `Fault(IllegalState)`; a token presented in such a state ends the
run: no later step is defined, however many are asked for. -/
def Obligations.IllegalStatesFault : Prop :=
  (∀ (k : BitVec 1) (d : Byte) (s : State),
    encode (.illegalSt5 k d) &&& 0xE00#12 = 0xA00#12 ∧ exec (.illegalSt5 k d) s = .fault .illegalState ∧
    condition (.illegalSt5 k d) s = .illegalState) ∧
  (∀ (k : BitVec 1) (d : Byte) (s : State),
    encode (.illegalSt6 k d) &&& 0xE00#12 = 0xC00#12 ∧ exec (.illegalSt6 k d) s = .fault .illegalState ∧
    condition (.illegalSt6 k d) s = .illegalState) ∧
  (∀ (s : State) (tok : Token) (rest : List HostMove) (n : Nat), s.cfg.wf = true → s.input = .present tok :: rest →
    (s.st = St.writePacket ∨ s.st = St.printStats ∨
      (s.st = St.readPacket ∧ Token.k tok = 0#1 ∧ s.cfg.plen ≤ s.idx.toNat) ∨
      (s.st = St.readChecksum ∧ Token.k tok = 0#1 ∧ 1 < s.idx.toNat)) →
    steps (n + 1) s = .fault .illegalState)

/-! ## Conditions -/

/-- R160, R164: the eight codes of R160's table; code 7 is the only fault and codes 0 to 6 are recovered (the step completes), and no
meaning refuses. The condition as a function of instruction and state is log entry 14; the unwritten reads are log entry 5, the range
check of an EOI is log entry 17. -/
def Obligations.OnlyIllegalStateFaults : Prop :=
  (Condition.none.code = 0#3 ∧ Condition.endOfInput.code = 1#3 ∧ Condition.mismatchSync2.code = 2#3 ∧
    Condition.mismatchLength.code = 3#3 ∧ Condition.mismatchDeviceId.code = 4#3 ∧ Condition.mismatchChecksum.code = 5#3 ∧
    Condition.structuralDecodeError.code = 6#3 ∧ Condition.illegalState.code = 7#3) ∧
  ∀ (i : Instr) (s : State),
    (condition i s = .illegalState → exec i s = .fault .illegalState) ∧
    (condition i s ≠ .illegalState → ∃ t, exec i s = .next t) ∧
    ((condition i s).code = 7#3 ↔ condition i s = .illegalState)

/-- R162: every FramingMismatch (codes 2 to 5) completes in SEARCH_SYNC with no event; only the checksum mismatch changes a counter,
and only `total`. -/
def Obligations.MismatchResynchronises : Prop :=
  ∀ (i : Instr) (s : State), (condition i s).isMismatch = true →
    ∃ t, exec i s = .next t ∧ t.st = St.searchSync ∧ t.events = s.events ∧ t.hdrDone = s.hdrDone ∧ t.valid = s.valid ∧
      t.total = if condition i s = .mismatchChecksum then satInc s.cfg s.total else s.total

/-- R163: a StructuralDecodeError skips the record: no event, the flag unchanged, both counters incremented, and the run goes on in
SEARCH_SYNC. Only BYTE.READ_CHECKSUM raises it, and never when `LEN_CONST >= 45`. -/
def Obligations.StructuralErrorSkipsTheRecord : Prop :=
  ∀ (i : Instr) (s : State), condition i s = .structuralDecodeError →
    (∃ d, i = .byteReadChecksum d) ∧ s.cfg.lenConst.toNat < 45 ∧
    ∃ t, exec i s = .next t ∧ t.st = St.searchSync ∧ t.events = s.events ∧ t.hdrDone = s.hdrDone ∧
      t.total = satInc s.cfg s.total ∧ t.valid = satInc s.cfg s.valid

/-! ## What writes each register, over every step -/

/-- R27, R28: a step that consumes a second checksum byte increments `total`, and `valid` when the checksum test holds; a reset clears
both; no other step writes either. -/
def Obligations.CountersChangeOnlyAtAnEvaluation : Prop :=
  ∀ s t : State, step s = .next t →
    (∀ cfg held rest, s.input = .reset cfg held :: rest → t.total = 0 ∧ t.valid = 0) ∧
    ((∀ cfg held rest, s.input ≠ .reset cfg held :: rest) →
      t.total = (if s.evaluatesNext then satInc s.cfg s.total else s.total) ∧
      t.valid = (if s.matchesNext then satInc s.cfg s.valid else s.valid))

/-- R26: `hdr_done` is set exactly by an accepted record (a checksum match that passes the structural check), which then emits `HDR`
before its `REC`; only a reset clears it; and only BYTE.READ_CHECKSUM, the row of R106, reads it: every other instruction does the
same whatever it holds, and keeps it. -/
def Obligations.HeaderFlagSetByTheFirstRecord : Prop :=
  (∀ s t : State, step s = .next t →
    (∀ cfg held rest, s.input = .reset cfg held :: rest → t.hdrDone = false) ∧
    ((∀ cfg held rest, s.input ≠ .reset cfg held :: rest) →
      t.hdrDone = (s.hdrDone || (s.matchesNext && decide (42 ≤ s.cfg.plen - 1))) ∧
      (s.hdrDone = false → t.hdrDone = true → ∃ r, t.events = s.events ++ [.hdr, .record r]))) ∧
  (∀ (i : Instr) (s t : State) (b : Bool), (∀ d, i ≠ .byteReadChecksum d) → exec i s = .next t →
    t.hdrDone = s.hdrDone ∧ exec i { s with hdrDone := b } = .next { t with hdrDone := b })

/-- R43: a BYTE token in READ_PACKET writes its byte to `pbuf[idx]` and to no other cell; no other step writes the buffer, but a reset,
which leaves every cell unwritten (R180). -/
def Obligations.OnlyReadPacketWritesTheBuffer : Prop :=
  ∀ s t : State, step s = .next t →
    (∀ cfg held rest, s.input = .reset cfg held :: rest → ∀ a, t.pbuf.read a = none) ∧
    (∀ tok rest, s.input = .present tok :: rest → s.st = St.readPacket → Token.k tok = 0#1 →
      ∀ a, t.pbuf.read a = if a = s.idx.toNat then some (Token.d tok) else s.pbuf.read a) ∧
    ((∀ cfg held rest, s.input ≠ .reset cfg held :: rest) →
      (∀ tok rest, s.input = .present tok :: rest → s.st = St.readPacket → Token.k tok ≠ 0#1) →
      ∀ a, t.pbuf.read a = s.pbuf.read a)

/-- R25: `c0` is written by the first checksum byte of a candidate and by no other step but a reset; only the second checksum byte reads
it: every other instruction does the same whatever it holds, and keeps it. -/
def Obligations.FirstChecksumByteIsHeld : Prop :=
  (∀ s t : State, step s = .next t →
    (∀ cfg held rest, s.input = .reset cfg held :: rest → t.c0 = none) ∧
    (∀ tok rest, s.input = .present tok :: rest → s.st = St.readChecksum → s.idx = 0#8 → Token.k tok = 0#1 →
      t.c0 = some (Token.d tok)) ∧
    ((∀ cfg held rest, s.input ≠ .reset cfg held :: rest) →
      (∀ tok rest, s.input = .present tok :: rest → s.st = St.readChecksum → s.idx = 0#8 → Token.k tok ≠ 0#1) →
      t.c0 = s.c0)) ∧
  (∀ (i : Instr) (s t : State) (c : Option Byte), (∀ d, i ≠ .byteReadChecksum d) → exec i s = .next t →
    t.c0 = s.c0 ∧ exec i { s with c0 := c } = .next { t with c0 := c }) ∧
  (∀ (d : Byte) (s : State) (c : Option Byte), s.idx = 0#8 →
    exec (.byteReadChecksum d) { s with c0 := c } = exec (.byteReadChecksum d) s)

/-- R53: a step only appends to the events: none, one, or the two of a run's first accepted record, `HDR` before `REC`. The list is log
entry 3. -/
def Obligations.EventsAreAppendedInOrder : Prop :=
  ∀ s t : State, step s = .next t → (∀ cfg held rest, s.input ≠ .reset cfg held :: rest) →
    t.events = s.events ∨ (∃ e, t.events = s.events ++ [e]) ∨
    (s.hdrDone = false ∧ t.hdrDone = true ∧ ∃ r, t.events = s.events ++ [.hdr, .record r])

/-- R22: no step writes a reserved encoding to `st`, no reachable state holds one, and a token presented in one faults. -/
def Obligations.ReservedStatesNeverLatched : Prop :=
  (∀ s t : State, step s = .next t →
    t.st = s.st ∨ t.st ∈ [St.searchSync, St.readSync, St.readLength, St.readPacket, St.readChecksum, St.exiting]) ∧
  (∀ s : State, Reachable s → s.st ≠ 5#3 ∧ s.st ≠ 6#3) ∧
  (∀ (s : State) (tok : Token) (rest : List HostMove), s.cfg.wf = true → s.input = .present tok :: rest →
    s.st = 5#3 ∨ s.st = 6#3 → step s = .fault .illegalState)

/-! ## The invariant -/

/-- The invariant holds right after reset, for every legal configuration and any host. -/
def Obligations.ResetMeetsTheInvariant : Prop :=
  ∀ (cfg : Config) (moves : List HostMove), cfg.wf = true → Inv { State.reset with cfg := cfg, input := moves }

/-- Every step keeps the invariant (R22, R23, R24, R29, R34, and the canonical form of the buffer): from every state that meets it. -/
def Obligations.EveryStepKeepsTheInvariant : Prop :=
  ∀ s t : State, Inv s → step s = .next t → Inv t

/-- Under the invariant nothing faults and every step completes, but a reset into an illegal configuration, which is refused: so
`Fault(IllegalState)` is unreachable from reset (R22, R23, R110), and no rule reads an unwritten cell (R34). That the reset step into
an illegal configuration, which R8 refuses, is itself the refusal is log entry 9. -/
def Obligations.InvariantStatesNeverFault : Prop :=
  (∀ s : State, Inv s → (∃ t, step s = .next t) ∨
    (∃ cfg held rest, s.input = .reset cfg held :: rest ∧ cfg.wf = false ∧ step s = .refused .illegalConfiguration)) ∧
  (∀ s : State, Reachable s → Inv s ∧ ∀ f, step s ≠ .fault f)

/-- The derived rules R29 and R112: in every reachable state `valid <= total`, both are `CNT_W`-bit values, and every `STATS` event
carries `t >= v` and `i = t - v`. -/
def Obligations.ReachableCountersInOrder : Prop :=
  ∀ s : State, Reachable s → s.valid ≤ s.total ∧ s.total < 2 ^ s.cfg.cntW ∧
    ∀ t v i, Event.stats t v i ∈ s.events → v ≤ t ∧ i = t - v

/-- The derived rule R114 and the result of a run in R189: the events of a reachable run are nothing or one `HDR` followed by at least one
`REC`, and then, exactly when the run has ended, one `STATS` with the final counters. The list is log entry 3. -/
def Obligations.ReachableEventShape : Prop :=
  ∀ s : State, Reachable s → EventShape s

/-! ## Runs -/

/-- The derived rule R183: the run `RESET, EOI` emits exactly `STATS(0, 0, 0)`. -/
def Obligations.EmptyInputReportsZeroes : Prop :=
  ∀ (s : State) (cfg : Config) (rest : List HostMove), cfg.wf = true →
    s.input = .reset cfg none :: .present Token.eoi :: rest →
    ∃ t, steps 2 s = .next t ∧ t.events = [.stats 0 0 0] ∧ t.st = St.exiting ∧ t.hdrDone = false

/-- R42's "discarded": end of input inside a multi-byte read (`idx` in its range, R23; out of it, OutOfRangeIdxFaultsEveryToken) changes no counter and emits only `STATS`, and nothing of the partial read
reaches a later run. -/
def Obligations.PartialReadsAreDiscarded : Prop :=
  ∀ (s : State) (d : Byte) (cfg : Config) (held : Option Token) (rest : List HostMove),
    s.cfg.wf = true → cfg.wf = true →
    (s.st = St.readPacket ∧ s.idx.toNat < s.cfg.plen) ∨ (s.st = St.readChecksum ∧ s.idx.toNat ≤ 1) →
    s.input = .present (Token.eoiWith d) :: .reset cfg held :: rest →
    (∃ t w, steps 1 s = .next t ∧ t.total = s.total ∧ t.valid = s.valid ∧ t.hdrDone = s.hdrDone ∧
      t.events = s.events ++ [.stats s.total s.valid w]) ∧
    steps 2 s = .next { State.reset with cfg := cfg, input := rest }

/-- The derived rule R115: in a stretch of a run without reset and below saturation, `total` grows by the number of steps that consumed a
second checksum byte, and `valid` by the number of those whose checksum test held. -/
def Obligations.CandidatesAreCountedOnce : Prop :=
  ∀ (n : Nat) (s t : State), steps n s = .next t → (∀ m ∈ s.input, m.isReset = false) → s.valid ≤ s.total →
    s.total + countSteps State.evaluatesNext n s ≤ s.cfg.maxCount →
    t.total = s.total + countSteps State.evaluatesNext n s ∧
    t.valid = s.valid + countSteps State.matchesNext n s ∧
    countSteps State.matchesNext n s ≤ countSteps State.evaluatesNext n s

/-- The derived rule R113: once the machine is in SEARCH_SYNC, where every mismatch leads, nothing of an earlier frame influences a later
step. Two states that differ only in `idx`, the buffer and `c0` run in step for ever: the same states of the FSM, counters, header flag
and events. -/
def Obligations.NoPartialFrameStateSurvives : Prop :=
  ∀ (n : Nat) (s t : State) (i : BitVec 8) (m : Memory) (c : Option Byte),
    s.st = St.searchSync → steps n s = .next t →
    ∃ t', steps n { s with idx := i, pbuf := m, c0 := c } = .next t' ∧
      t'.st = t.st ∧ t'.hdrDone = t.hdrDone ∧ t'.total = t.total ∧ t'.valid = t.valid ∧ t'.events = t.events ∧
      t'.input = t.input ∧ (t.st = St.readPacket ∨ t.st = St.readChecksum → t'.idx = t.idx)

/-- The derived rule R116: a consumed byte is never reconsidered. With `SYNC` and `LEN_CONST` different, three sync bytes in a row lose the
frame: the machine is back in SEARCH_SYNC and scans the length byte as noise. -/
def Obligations.ThirdSyncByteLosesTheFrame : Prop :=
  ∀ (s : State) (rest : List HostMove), s.cfg.wf = true → s.st = St.searchSync → s.cfg.sync ≠ s.cfg.lenConst →
    steps 3 (s.fed [s.cfg.sync, s.cfg.sync, s.cfg.sync] rest) = .next { s with input := rest } ∧
    steps 4 (s.fed [s.cfg.sync, s.cfg.sync, s.cfg.sync, s.cfg.lenConst] rest) = .next { s with input := rest }

/-- The derived rule R117, first half: after a length byte, a payload with a wrong device id is consumed whole. No byte of it starts a
frame, nothing is counted or emitted, and the machine is then in SEARCH_SYNC. -/
def Obligations.WrongDeviceIdConsumesThePayload : Prop :=
  ∀ (s : State) (id : Byte) (ds : List Byte) (rest : List HostMove), s.cfg.wf = true → s.st = St.readPacket →
    s.idx = 0#8 → ds.length + 1 = s.cfg.plen → id ≠ s.cfg.deviceId →
    (∃ t, steps s.cfg.plen (s.fed (id :: ds) rest) = .next t ∧ t.st = St.searchSync ∧ t.input = rest ∧
      t.total = s.total ∧ t.valid = s.valid ∧ t.hdrDone = s.hdrDone ∧ t.events = s.events) ∧
    ∀ k, k < s.cfg.plen → ∃ u, steps k (s.fed (id :: ds) rest) = .next u ∧ u.st = St.readPacket

/-- The derived rule R117, second half: a frame whose checksum fails is consumed to its last checksum byte, `PLEN + 2` bytes after the
length byte; it is counted in `total` only. -/
def Obligations.BadChecksumConsumesTheFrame : Prop :=
  ∀ (s : State) (ds : List Byte) (c0 c1 : Byte) (rest : List HostMove), s.cfg.wf = true → s.st = St.readPacket →
    s.idx = 0#8 → ds.length + 1 = s.cfg.plen →
    compose s.cfg.csumOrder c0 c1 ≠ checksum16 s.cfg.crcAlg (s.cfg.deviceId :: ds) →
    (∃ t, steps (s.cfg.plen + 2) (s.fed ((s.cfg.deviceId :: ds) ++ [c0, c1]) rest) = .next t ∧ t.st = St.searchSync ∧
      t.input = rest ∧ t.total = satInc s.cfg s.total ∧ t.valid = s.valid ∧ t.hdrDone = s.hdrDone ∧
      t.events = s.events) ∧
    ∀ k, k < s.cfg.plen + 2 → ∃ u, steps k (s.fed ((s.cfg.deviceId :: ds) ++ [c0, c1]) rest) = .next u ∧
      (u.st = St.readPacket ∨ u.st = St.readChecksum)

/-- The derived rule R118 (a): from any active state that meets the invariant, whatever the bytes, the machine is in SEARCH_SYNC again after
at most `PLEN + 4` of them. -/
def Obligations.SearchSyncWithinOneFrame : Prop :=
  ∀ (s : State) (ds : List Byte) (rest : List HostMove), Inv s → s.active = true → ds.length = s.cfg.plen + 4 →
    ∃ k t, k ≤ s.cfg.plen + 4 ∧ steps k (s.fed ds rest) = .next t ∧ t.st = St.searchSync

/-- The derived rule R118 (b): a frame that begins in SEARCH_SYNC is always found, under every legal configuration and whatever the
registers hold: it is counted in both counters, its record is emitted (with `HDR` before a run's first) unless the payload is too short
for one, and the machine is in SEARCH_SYNC again. -/
def Obligations.FrameFromSearchSyncIsAccepted : Prop :=
  ∀ (s : State) (rb : List Byte) (rest : List HostMove), s.cfg.wf = true → s.st = St.searchSync →
    rb.length = s.cfg.plen - 1 →
    ∃ t, steps (s.cfg.plen + 5) (s.fed (frame s.cfg rb) rest) = .next t ∧ t.st = St.searchSync ∧ t.idx = 0#8 ∧
      t.input = rest ∧ t.cfg = s.cfg ∧ t.total = satInc s.cfg s.total ∧ t.valid = satInc s.cfg s.valid ∧
      (s.cfg.plen - 1 < 42 → t.events = s.events ∧ t.hdrDone = s.hdrDone) ∧
      (42 ≤ s.cfg.plen - 1 → ∃ r, unpack (s.cfg.deviceId :: rb) = .record r ∧ t.hdrDone = true ∧
        t.events = s.events ++ (if s.hdrDone then [.record r] else [.hdr, .record r]))

/-! ## The field unpacker -/

/-- R131: the structural check. -/
def Obligations.UnpackChecksTheLength : Prop :=
  (∀ p : List Byte, unpack p = .structuralDecodeError ↔ p.length - 1 < 42) ∧
  (∀ s : State, s.cfg.wf = true → ∀ p, s.payload = some p →
    (unpack p = .structuralDecodeError ↔ s.cfg.plen < 43) ∧ (s.cfg.plen < 43 ↔ s.cfg.lenConst.toNat < 45))

/-- R136 with R132 to R135 and R139: the value of every field, as an integer of the payload bytes at its offset, in the order of the
record; the 32-bit and 16-bit fields are signed. A field is given by its record offset, its bytes and whether it is signed. -/
def Obligations.UnpackFollowsTheLayout : Prop :=
  ∀ (p : List Byte) (r : Record), unpack p = .record r →
    r.values =
      ([(0, 4, true), (4, 4, true), (8, 4, true), (12, 4, true), (16, 4, true), (20, 4, true),
        (24, 2, true), (26, 2, true), (28, 2, true), (30, 2, true), (32, 2, true), (34, 2, true),
        (36, 2, true), (38, 2, true), (40, 1, false), (41, 1, false)] : List (Nat × Nat × Bool)).map
      fun f =>
        let raw : Int := ((List.range f.2.1).map fun j => ((p.getD (1 + f.1 + j) 0#8).toNat : Int) * 256 ^ j).sum
        if f.2.2 = true ∧ (256 : Int) ^ f.2.1 ≤ 2 * raw then raw - 256 ^ f.2.1 else raw

/-- The derived rule R137: payload bytes beyond the record do not change it. -/
def Obligations.UnpackIgnoresBytesBeyondTheRecord : Prop :=
  ∀ p q : List Byte, 43 ≤ p.length → unpack (p ++ q) = unpack p

/-- The derived rule R138: packing and unpacking are inverse to each other, whatever the device-id byte. -/
def Obligations.PackAndUnpackAreInverse : Prop :=
  (∀ (x : Byte) (r : Record), (pack r).length = 42 ∧ unpack (x :: pack r) = .record r) ∧
  (∀ (x : Byte) (rb : List Byte), rb.length = 42 → ∃ r, unpack (x :: rb) = .record r ∧ pack r = rb)

/-- R48: the same four bytes read as one 32-bit value, two 16-bit values (low offset first) or four bytes, consistently. -/
def Obligations.MixedWidthViewsAgree : Prop :=
  ∀ b0 b1 b2 b3 : Byte,
    (le16 b0 b1).toNat = b0.toNat + 2 ^ 8 * b1.toNat ∧
    (le32 b0 b1 b2 b3).toNat = (le16 b0 b1).toNat + 2 ^ 16 * (le16 b2 b3).toNat ∧
    bytes32 (le32 b0 b1 b2 b3) = [b0, b1, b2, b3] ∧ bytes16 (le16 b0 b1) = [b0, b1]

/-! ## The checksum engine -/

/-- R86: the received checksum, in both orders. -/
def Obligations.ComposeFollowsTheOrder : Prop :=
  ∀ c0 c1 : Byte, (compose .highFirst c0 c1).toNat = 2 ^ 8 * c0.toNat + c1.toNat ∧
    (compose .lowFirst c0 c1).toNat = 2 ^ 8 * c1.toNat + c0.toNat

/-- The derived rule R84: for every algorithm with reflected input and output the table-driven form computes what the bitwise definition
R81 does, and for the default algorithm so does the table the spec prints. -/
def Obligations.TableDrivenFormAgrees : Prop :=
  (∀ (alg : CrcAlg) (bytes : List Byte), alg.refin = true → alg.refout = true →
    checksumByTable (tableEntry alg.poly) alg bytes = checksum16 alg bytes) ∧
  (∀ bytes : List Byte,
    checksumByTable (fun i => arcTable.getD i.toNat 0#16) CrcAlg.arc bytes = checksum16 CrcAlg.arc bytes)

/-- The derived rule R88, under the default algorithm: the empty span, spans of zeroes, the payload of the all-zero record, and the
residue after the low and the high byte of the checksum. -/
def Obligations.ChecksumCornerCases : Prop :=
  checksum16 CrcAlg.arc [] = CrcAlg.arc.init ^^^ CrcAlg.arc.xorout ∧
  (∀ n, checksum16 CrcAlg.arc (List.replicate n 0#8) = 0x0000#16) ∧
  checksum16 CrcAlg.arc (0x87#8 :: List.replicate 42 0#8) = 0xE433#16 ∧
  (∀ bytes : List Byte, checksum16 CrcAlg.arc (bytes ++ checksumBytes .lowFirst (checksum16 CrcAlg.arc bytes)) = 0x0000#16)

/-- R68: the macros, for record bytes of the right number: `FRAME`, its checksum bytes in each order, `FRAME_REC`, `BADCRC_FRAME` (the
checksum with its lowest bit flipped) and `NOISE`; each expands to the BYTE tokens of its bytes, in order. -/
def Obligations.MacrosExpandToFrames : Prop :=
  ∀ (c : Config) (rb : List Byte) (crc : Half), rb.length = c.plen - 1 → crc = checksum16 c.crcAlg (c.deviceId :: rb) →
    frame c rb = [c.sync, c.sync, c.lenConst, c.deviceId] ++ rb ++
      (match c.csumOrder with
        | .highFirst => [crc.extractLsb' 8 8, crc.extractLsb' 0 8]
        | .lowFirst => [crc.extractLsb' 0 8, crc.extractLsb' 8 8]) ∧
    badCrcFrame c rb = [c.sync, c.sync, c.lenConst, c.deviceId] ++ rb ++
      (match c.csumOrder with
        | .highFirst => [(crc ^^^ 1#16).extractLsb' 8 8, (crc ^^^ 1#16).extractLsb' 0 8]
        | .lowFirst => [(crc ^^^ 1#16).extractLsb' 0 8, (crc ^^^ 1#16).extractLsb' 8 8]) ∧
    (∀ r : Record, frameRec c r = frame c (pack r)) ∧
    (∀ bs : List Byte, StreamItem.moves c (.noise bs) = bs.map fun b => .present (Token.byte b)) ∧
    StreamItem.moves c (.frame rb) = (frame c rb).map (fun b => .present (Token.byte b)) ∧
    StreamItem.moves c (.badCrcFrame rb) = (badCrcFrame c rb).map (fun b => .present (Token.byte b)) ∧
    (∀ r : Record, StreamItem.moves c (.frameRec r) = (frameRec c r).map fun b => .present (Token.byte b)) ∧
    (c = Config.default → (StreamItem.moves c (.frame rb)).length = 48)

/-! ## What the host sees -/

/-- R32: for every state each signal of the status port is the state field of its name, and the port does not expose the payload buffer
or `c0`: it is the same whatever they hold. -/
def Obligations.StatusPortShowsTheFields : Prop :=
  (∀ s : State, s.statusPort.st = s.st ∧ s.statusPort.idx = s.idx ∧ s.statusPort.hdrDone = s.hdrDone ∧
    s.statusPort.total = s.total ∧ s.statusPort.valid = s.valid) ∧
  (∀ s t : State, t = { s with pbuf := t.pbuf, c0 := t.c0 } → t.statusPort = s.statusPort)

/-- R65: the kind codes of no event, `HDR`, `REC` and `STATS`, whatever these carry. -/
def Obligations.EventKindCodes : Prop :=
  kindCode none = 0b00#2 ∧ kindCode (some .hdr) = 0b01#2 ∧ (∀ r : Record, kindCode (some (.record r)) = 0b10#2) ∧
  (∀ t v i : Nat, kindCode (some (.stats t v i)) = 0b11#2)

/-- R23 and R165: in READ_PACKET and READ_CHECKSUM the range check on `idx` comes before everything else: a step with a token, of either
kind, from a state out of range raises `Fault(IllegalState)`. That this includes EOI, where R108 does not repeat it, is log entry 17. -/
def Obligations.OutOfRangeIdxFaultsEveryToken : Prop :=
  ∀ (s : State) (tok : Token) (rest : List HostMove), s.cfg.wf = true → s.input = .present tok :: rest →
    (s.st = St.readPacket ∧ s.cfg.plen ≤ s.idx.toNat) ∨ (s.st = St.readChecksum ∧ 1 < s.idx.toNat) →
    step s = .fault .illegalState ∧ condition (decodeKey (dispatchKey s.st tok)) s = .illegalState
end

