-- ==== Sys2Proof/Laws/Checksum.lean ====
section
/-! SUPPORT. Reflection, and the two shift registers of the checksum engine: each is the mirror image of the other, and the reflected
one is linear. -/

namespace Sys2Proof.Machine

theorem reflect16_reflect16 (r : Half) : reflect16 (reflect16 r) = r := by
  unfold reflect16; ext i hi; simp

theorem reflect16_xor (a b : Half) : reflect16 (a ^^^ b) = reflect16 a ^^^ reflect16 b := by
  unfold reflect16; ext i hi; simp [BitVec.getElem_reverse, BitVec.getMsbD_xor]

theorem reflect16_shiftLeft (a : Half) : reflect16 (a <<< 1) = reflect16 a >>> 1 := by
  unfold reflect16; ext i hi
  simp [BitVec.getElem_reverse, BitVec.getLsbD_reverse, BitVec.getMsbD_shiftLeft, Nat.add_comm]

/-- One shift of R81 is, mirrored, one shift of R84. -/
theorem reflect16_crcShift (poly r : Half) :
    reflect16 (crcShift poly r) = tableShift (reflect16 poly) (reflect16 r) := by
  have h : (reflect16 r).getLsbD 0 = r.getLsbD 15 := by unfold reflect16; rw [BitVec.getLsbD_reverse]; rfl
  unfold crcShift tableShift
  rw [h]; split
  · rw [reflect16_xor, reflect16_shiftLeft]
  · rw [reflect16_shiftLeft]

theorem reflect16_crcShifts (poly : Half) (n : Nat) (r : Half) :
    reflect16 (crcShifts poly n r) = tableShifts (reflect16 poly) n (reflect16 r) := by
  induction n generalizing r with
  | zero => rfl
  | succ n ih => rw [crcShifts, tableShifts, ih, reflect16_crcShift]

theorem tableShift_xor (p a b : Half) : tableShift p (a ^^^ b) = tableShift p a ^^^ tableShift p b := by
  have h : ∀ x y z : Half, x ^^^ y = x ^^^ z ^^^ (y ^^^ z) := by
    intro x y z; ext i hi; simp; cases x[i] <;> cases y[i] <;> cases z[i] <;> rfl
  unfold tableShift
  rw [BitVec.getLsbD_xor]
  cases a.getLsbD 0 <;> cases b.getLsbD 0 <;> simp [BitVec.ushiftRight_xor_distrib]
  · ac_rfl
  · ac_rfl
  · exact h _ _ _

theorem tableShifts_xor (p : Half) (n : Nat) (a b : Half) :
    tableShifts p n (a ^^^ b) = tableShifts p n a ^^^ tableShifts p n b := by
  induction n generalizing a b with
  | zero => rfl
  | succ n ih => rw [tableShifts, tableShifts, tableShifts, tableShift_xor, ih]

/-- Bits that are not shifted out do not feed back. -/
theorem tableShifts_of_low_zero (p : Half) (n : Nat) (a : Half) (h : ∀ i, i < n → a.getLsbD i = false) :
    tableShifts p n a = a >>> n := by
  induction n generalizing a with
  | zero => simp [tableShifts]
  | succ n ih =>
    rw [tableShifts, tableShift, h 0 (by omega)]
    simp only [Bool.false_eq_true, if_false]
    rw [ih _ (fun i hi => by rw [BitVec.getLsbD_ushiftRight]; exact h _ (by omega)), ← BitVec.shiftRight_add, Nat.add_comm]

end Sys2Proof.Machine
end

