-- ==== Sys2Proof/Laws/Decode.lean ====
section
/-! SUPPORT. Tokens, keys, and the instruction a token is in each state. -/

namespace Sys2Proof

/-- The instruction of the fields of a key, written as a table over `st` and `K`. -/
def Instr.ofFields (st : BitVec 3) (k : BitVec 1) (d : Byte) : Instr :=
  if st = 0#3 then if k = 0#1 then .byteSearchSync d else .eoiSearchSync d
  else if st = 1#3 then if k = 0#1 then .byteReadSync d else .eoiReadSync d
  else if st = 2#3 then if k = 0#1 then .byteReadLength d else .eoiReadLength d
  else if st = 3#3 then if k = 0#1 then .byteReadPacket d else .eoiReadPacket d
  else if st = 4#3 then if k = 0#1 then .byteReadChecksum d else .eoiReadChecksum d
  else if st = 5#3 then .illegalSt5 k d
  else if st = 6#3 then .illegalSt6 k d
  else .anyExiting k d

/-- The decoder on the fields of a key. -/
theorem decodeKey_dispatchKey (st : BitVec 3) (t : Token) :
    decodeKey (dispatchKey st t) = Instr.ofFields st (Token.k t) (Token.d t) := by
  revert st t; decide +kernel

theorem Token.fields_byte : ∀ d : Byte, Token.k (Token.byte d) = 0#1 ∧ Token.d (Token.byte d) = d := by
  decide +kernel

theorem Token.fields_eoiWith : ∀ d : Byte, Token.k (Token.eoiWith d) = 1#1 ∧ Token.d (Token.eoiWith d) = d := by
  decide +kernel

@[simp] theorem Token.byte_k (d : Byte) : Token.k (Token.byte d) = 0#1 := (Token.fields_byte d).1
@[simp] theorem Token.byte_d (d : Byte) : Token.d (Token.byte d) = d := (Token.fields_byte d).2
@[simp] theorem Token.eoiWith_k (d : Byte) : Token.k (Token.eoiWith d) = 1#1 := (Token.fields_eoiWith d).1
@[simp] theorem Token.eoiWith_d (d : Byte) : Token.d (Token.eoiWith d) = d := (Token.fields_eoiWith d).2

namespace Machine

/-! ### The instruction of a token, by state and kind (R63) -/

theorem dispatch_eq (s : State) (t : Token) : s.dispatch t = Instr.ofFields s.st (Token.k t) (Token.d t) :=
  decodeKey_dispatchKey s.st t

theorem dispatch_searchSync_byte {s : State} {t : Token} (h : s.st = St.searchSync) (hk : Token.k t = 0#1) :
    s.dispatch t = .byteSearchSync (Token.d t) := by simp [dispatch_eq, Instr.ofFields, h, hk]

theorem dispatch_searchSync_eoi {s : State} {t : Token} (h : s.st = St.searchSync) (hk : Token.k t = 1#1) :
    s.dispatch t = .eoiSearchSync (Token.d t) := by simp [dispatch_eq, Instr.ofFields, h, hk]

theorem dispatch_readSync_byte {s : State} {t : Token} (h : s.st = St.readSync) (hk : Token.k t = 0#1) :
    s.dispatch t = .byteReadSync (Token.d t) := by simp [dispatch_eq, Instr.ofFields, h, hk]

theorem dispatch_readSync_eoi {s : State} {t : Token} (h : s.st = St.readSync) (hk : Token.k t = 1#1) :
    s.dispatch t = .eoiReadSync (Token.d t) := by simp [dispatch_eq, Instr.ofFields, h, hk]

theorem dispatch_readLength_byte {s : State} {t : Token} (h : s.st = St.readLength) (hk : Token.k t = 0#1) :
    s.dispatch t = .byteReadLength (Token.d t) := by simp [dispatch_eq, Instr.ofFields, h, hk]

theorem dispatch_readLength_eoi {s : State} {t : Token} (h : s.st = St.readLength) (hk : Token.k t = 1#1) :
    s.dispatch t = .eoiReadLength (Token.d t) := by simp [dispatch_eq, Instr.ofFields, h, hk]

theorem dispatch_readPacket_byte {s : State} {t : Token} (h : s.st = St.readPacket) (hk : Token.k t = 0#1) :
    s.dispatch t = .byteReadPacket (Token.d t) := by simp [dispatch_eq, Instr.ofFields, h, hk]

theorem dispatch_readPacket_eoi {s : State} {t : Token} (h : s.st = St.readPacket) (hk : Token.k t = 1#1) :
    s.dispatch t = .eoiReadPacket (Token.d t) := by simp [dispatch_eq, Instr.ofFields, h, hk]

theorem dispatch_readChecksum_byte {s : State} {t : Token} (h : s.st = St.readChecksum) (hk : Token.k t = 0#1) :
    s.dispatch t = .byteReadChecksum (Token.d t) := by simp [dispatch_eq, Instr.ofFields, h, hk]

theorem dispatch_readChecksum_eoi {s : State} {t : Token} (h : s.st = St.readChecksum) (hk : Token.k t = 1#1) :
    s.dispatch t = .eoiReadChecksum (Token.d t) := by simp [dispatch_eq, Instr.ofFields, h, hk]

theorem dispatch_st5 {s : State} {t : Token} (h : s.st = St.writePacket) :
    s.dispatch t = .illegalSt5 (Token.k t) (Token.d t) := by simp [dispatch_eq, Instr.ofFields, h]

theorem dispatch_st6 {s : State} {t : Token} (h : s.st = St.printStats) :
    s.dispatch t = .illegalSt6 (Token.k t) (Token.d t) := by simp [dispatch_eq, Instr.ofFields, h]

theorem dispatch_exiting {s : State} {t : Token} (h : s.st = St.exiting) :
    s.dispatch t = .anyExiting (Token.k t) (Token.d t) := by simp [dispatch_eq, Instr.ofFields, h]

/-- A kind bit is 0 or 1. -/
theorem kind_cases (k : BitVec 1) : k = 0#1 ∨ k = 1#1 := by revert k; decide

/-- The state register holds one of its eight encodings (R21). -/
theorem st_cases (st : BitVec 3) :
    st = St.searchSync ∨ st = St.readSync ∨ st = St.readLength ∨ st = St.readPacket ∨ st = St.readChecksum ∨
      st = St.writePacket ∨ st = St.printStats ∨ st = St.exiting := by revert st; decide

end Machine
end Sys2Proof
end

