-- ==== Sys2Proof/Laws/Memory.lean ====
section
/-! SUPPORT. The payload buffer: read after write, the canonical form, and the read of a range. -/

namespace Sys2Proof.Machine

@[simp] theorem Memory.read_nil (a : Nat) : Memory.read [] a = none := rfl

theorem Memory.read_cons (c : Host.Cell) (m : Memory) (a : Nat) :
    Memory.read (c :: m) a = if c.1 = a then some c.2 else m.read a := rfl

theorem Memory.write_nil (a : Nat) (b : Byte) : Memory.write [] a b = [(a, b)] := rfl

theorem Memory.write_cons (c : Host.Cell) (m : Memory) (a : Nat) (b : Byte) :
    Memory.write (c :: m) a b =
      if c.1 < a then c :: m.write a b else if c.1 = a then (a, b) :: m else (a, b) :: c :: m := rfl

/-- A write sets its own cell and no other. -/
theorem Memory.read_write (m : Memory) (a : Nat) (b : Byte) (x : Nat) :
    (m.write a b).read x = if x = a then some b else m.read x := by
  induction m with
  | nil => simp [Memory.write_nil, Memory.read_cons, eq_comm]
  | cons c m ih =>
    rw [Memory.write_cons]
    split <;> grind [Memory.read_cons]

theorem Memory.mem_write {m : Memory} {a : Nat} {b : Byte} {c : Host.Cell} (h : c ∈ m.write a b) :
    c = (a, b) ∨ c ∈ m := by
  induction m with
  | nil => simpa [Memory.write_nil] using h
  | cons c' m ih =>
    rw [Memory.write_cons] at h
    split at h
    · rcases List.mem_cons.1 h with h | h
      · exact .inr (by simp [h])
      · exact (ih h).imp_right (List.mem_cons_of_mem _)
    · split at h <;> simp only [List.mem_cons] at h ⊢ <;> tauto

/-- The canonical form is that the offsets strictly rise. -/
theorem Memory.wf_iff (m : Memory) : m.wf = true ↔ m.Pairwise (fun c c' => c.1 < c'.1) := by
  induction m with
  | nil => simp [Memory.wf]
  | cons c m ih =>
    cases m with
    | nil => simp [Memory.wf]
    | cons c' rest =>
      have step : Memory.wf (c :: c' :: rest) = (decide (c.1 < c'.1) && Memory.wf (c' :: rest)) := rfl
      rw [step, Bool.and_eq_true, ih, List.pairwise_cons (a := c)]
      constructor
      · rintro ⟨h, hp⟩
        refine ⟨fun x hx => ?_, hp⟩
        rcases List.mem_cons.1 hx with rfl | hx
        · simpa using h
        · exact lt_trans (by simpa using h) ((List.pairwise_cons.1 hp).1 x hx)
      · rintro ⟨h, hp⟩
        exact ⟨by simpa using h c' (by simp), hp⟩

/-- The one store operation keeps the canonical form. -/
theorem Memory.wf_write {m : Memory} (h : m.wf = true) (a : Nat) (b : Byte) : (m.write a b).wf = true := by
  rw [Memory.wf_iff] at h ⊢
  induction m with
  | nil => simp [Memory.write_nil]
  | cons c m ih =>
    obtain ⟨hc, hm⟩ := List.pairwise_cons.1 h
    rw [Memory.write_cons]
    split
    · rename_i hlt
      refine List.pairwise_cons.2 ⟨fun x hx => ?_, ih hm⟩
      rcases Memory.mem_write hx with rfl | hx
      · exact hlt
      · exact hc x hx
    · split
      · rename_i heq
        exact List.pairwise_cons.2 ⟨fun x hx => by simpa [heq] using hc x hx, hm⟩
      · rename_i h1 h2
        refine List.pairwise_cons.2 ⟨fun x hx => ?_, h⟩
        rcases List.mem_cons.1 hx with rfl | hx
        · simp only; omega
        · have := hc x hx; simp only; omega

/-- The payload buffer after reset is in canonical form. -/
theorem State.reset_pbuf_wf : State.reset.pbuf.wf = true := rfl

/-- The read of a range answers exactly the bytes the cells hold. -/
theorem Memory.readRange_eq_some_iff (m : Memory) (a n : Nat) (p : List Byte) :
    m.readRange a n = some p ↔ p.length = n ∧ ∀ k, k < n → m.read (a + k) = p[k]? := by
  induction n generalizing a p with
  | zero => cases p <;> simp [Memory.readRange]
  | succ n ih =>
    have unfolded : m.readRange a (n + 1) = some p ↔
        ∃ b bs, m.read a = some b ∧ m.readRange (a + 1) n = some bs ∧ p = b :: bs := by
      simp only [Memory.readRange]
      cases m.read a <;> cases m.readRange (a + 1) n <;> simp [eq_comm]
    rw [unfolded]
    constructor
    · rintro ⟨b, bs, hb, hbs, rfl⟩
      obtain ⟨hl, hr⟩ := (ih (a + 1) bs).1 hbs
      refine ⟨by simp [hl], fun k hk => ?_⟩
      cases k with
      | zero => simpa using hb
      | succ k => simpa [Nat.add_assoc, Nat.add_comm 1 k] using hr k (by omega)
    · rintro ⟨hl, hr⟩
      cases p with
      | nil => simp at hl
      | cons b bs =>
        refine ⟨b, bs, by simpa using hr 0 (by omega), (ih (a + 1) bs).2 ⟨by simpa using hl, fun k hk => ?_⟩, rfl⟩
        simpa [Nat.add_assoc, Nat.add_comm 1 k] using hr (k + 1) (by omega)

/-- A range whose cells are all written can be read. -/
theorem Memory.readRange_isSome (m : Memory) (a n : Nat) (h : ∀ k, k < n → (m.read (a + k)).isSome) :
    ∃ p, m.readRange a n = some p := by
  induction n generalizing a with
  | zero => exact ⟨[], rfl⟩
  | succ n ih =>
    obtain ⟨bs, hbs⟩ := ih (a + 1) fun k hk => by
      have := h (k + 1) (by omega); rwa [Nat.add_comm k 1, ← Nat.add_assoc] at this
    obtain ⟨b, hb⟩ := Option.isSome_iff_exists.1 (h 0 (by omega))
    exact ⟨b :: bs, by simp only [Nat.add_zero] at hb; simp [Memory.readRange, hb, hbs]⟩

/-- The whole payload, by its cells. -/
theorem State.payload_eq_some_iff (s : State) (p : List Byte) :
    s.payload = some p ↔ p.length = s.cfg.plen ∧ ∀ a, a < s.cfg.plen → s.pbuf.read a = p[a]? := by
  simpa [State.payload] using Memory.readRange_eq_some_iff s.pbuf 0 s.cfg.plen p

end Sys2Proof.Machine
end

