-- ==== Sys2Proof/Laws/State.lean ====
section
/-! SUPPORT. What each update of the state does to each field: one lemma per field per update. -/

namespace Sys2Proof.Machine

/-! ### `goto` -/

@[simp] theorem State.goto_cfg (s : State) (x : BitVec 3) : (s.goto x).cfg = s.cfg := rfl
@[simp] theorem State.goto_st (s : State) (x : BitVec 3) : (s.goto x).st = x := rfl
@[simp] theorem State.goto_idx (s : State) (x : BitVec 3) : (s.goto x).idx = s.idx := rfl
@[simp] theorem State.goto_pbuf (s : State) (x : BitVec 3) : (s.goto x).pbuf = s.pbuf := rfl
@[simp] theorem State.goto_c0 (s : State) (x : BitVec 3) : (s.goto x).c0 = s.c0 := rfl
@[simp] theorem State.goto_hdrDone (s : State) (x : BitVec 3) : (s.goto x).hdrDone = s.hdrDone := rfl
@[simp] theorem State.goto_total (s : State) (x : BitVec 3) : (s.goto x).total = s.total := rfl
@[simp] theorem State.goto_valid (s : State) (x : BitVec 3) : (s.goto x).valid = s.valid := rfl
@[simp] theorem State.goto_input (s : State) (x : BitVec 3) : (s.goto x).input = s.input := rfl
@[simp] theorem State.goto_events (s : State) (x : BitVec 3) : (s.goto x).events = s.events := rfl

/-! ### `resync` -/

@[simp] theorem State.resync_cfg (s : State) : (s.resync).cfg = s.cfg := rfl
@[simp] theorem State.resync_st (s : State) : (s.resync).st = St.searchSync := rfl
@[simp] theorem State.resync_idx (s : State) : (s.resync).idx = s.idx := rfl
@[simp] theorem State.resync_pbuf (s : State) : (s.resync).pbuf = s.pbuf := rfl
@[simp] theorem State.resync_c0 (s : State) : (s.resync).c0 = s.c0 := rfl
@[simp] theorem State.resync_hdrDone (s : State) : (s.resync).hdrDone = s.hdrDone := rfl
@[simp] theorem State.resync_total (s : State) : (s.resync).total = s.total := rfl
@[simp] theorem State.resync_valid (s : State) : (s.resync).valid = s.valid := rfl
@[simp] theorem State.resync_input (s : State) : (s.resync).input = s.input := rfl
@[simp] theorem State.resync_events (s : State) : (s.resync).events = s.events := rfl

/-! ### `emit` -/

@[simp] theorem State.emit_cfg (s : State) (e : Event) : (s.emit e).cfg = s.cfg := rfl
@[simp] theorem State.emit_st (s : State) (e : Event) : (s.emit e).st = s.st := rfl
@[simp] theorem State.emit_idx (s : State) (e : Event) : (s.emit e).idx = s.idx := rfl
@[simp] theorem State.emit_pbuf (s : State) (e : Event) : (s.emit e).pbuf = s.pbuf := rfl
@[simp] theorem State.emit_c0 (s : State) (e : Event) : (s.emit e).c0 = s.c0 := rfl
@[simp] theorem State.emit_hdrDone (s : State) (e : Event) : (s.emit e).hdrDone = s.hdrDone := rfl
@[simp] theorem State.emit_total (s : State) (e : Event) : (s.emit e).total = s.total := rfl
@[simp] theorem State.emit_valid (s : State) (e : Event) : (s.emit e).valid = s.valid := rfl
@[simp] theorem State.emit_input (s : State) (e : Event) : (s.emit e).input = s.input := rfl
@[simp] theorem State.emit_events (s : State) (e : Event) : (s.emit e).events = s.events ++ [e] := rfl

/-! ### `memWrite` -/

@[simp] theorem State.memWrite_cfg (s : State) (i : Nat) (v : Byte) : (s.memWrite i v).cfg = s.cfg := rfl
@[simp] theorem State.memWrite_st (s : State) (i : Nat) (v : Byte) : (s.memWrite i v).st = s.st := rfl
@[simp] theorem State.memWrite_idx (s : State) (i : Nat) (v : Byte) : (s.memWrite i v).idx = s.idx := rfl
@[simp] theorem State.memWrite_pbuf (s : State) (i : Nat) (v : Byte) : (s.memWrite i v).pbuf = s.pbuf.write i v := rfl
@[simp] theorem State.memWrite_c0 (s : State) (i : Nat) (v : Byte) : (s.memWrite i v).c0 = s.c0 := rfl
@[simp] theorem State.memWrite_hdrDone (s : State) (i : Nat) (v : Byte) : (s.memWrite i v).hdrDone = s.hdrDone := rfl
@[simp] theorem State.memWrite_total (s : State) (i : Nat) (v : Byte) : (s.memWrite i v).total = s.total := rfl
@[simp] theorem State.memWrite_valid (s : State) (i : Nat) (v : Byte) : (s.memWrite i v).valid = s.valid := rfl
@[simp] theorem State.memWrite_input (s : State) (i : Nat) (v : Byte) : (s.memWrite i v).input = s.input := rfl
@[simp] theorem State.memWrite_events (s : State) (i : Nat) (v : Byte) : (s.memWrite i v).events = s.events := rfl

/-! ### `printStats` -/

@[simp] theorem State.printStats_cfg (s : State) : (s.printStats).cfg = s.cfg := rfl
@[simp] theorem State.printStats_st (s : State) : (s.printStats).st = St.exiting := rfl
@[simp] theorem State.printStats_idx (s : State) : (s.printStats).idx = 0#8 := rfl
@[simp] theorem State.printStats_pbuf (s : State) : (s.printStats).pbuf = s.pbuf := rfl
@[simp] theorem State.printStats_c0 (s : State) : (s.printStats).c0 = s.c0 := rfl
@[simp] theorem State.printStats_hdrDone (s : State) : (s.printStats).hdrDone = s.hdrDone := rfl
@[simp] theorem State.printStats_total (s : State) : (s.printStats).total = s.total := rfl
@[simp] theorem State.printStats_valid (s : State) : (s.printStats).valid = s.valid := rfl
@[simp] theorem State.printStats_input (s : State) : (s.printStats).input = s.input := rfl
@[simp] theorem State.printStats_events (s : State) : (s.printStats).events = s.events ++ [.stats s.total s.valid (countDiff s.cfg.cntW s.total s.valid)] := rfl

/-! ### `afterReset` -/

@[simp] theorem State.afterReset_cfg (s : State) (c : Config) : (s.afterReset c).cfg = c := rfl
@[simp] theorem State.afterReset_st (s : State) (c : Config) : (s.afterReset c).st = St.searchSync := rfl
@[simp] theorem State.afterReset_idx (s : State) (c : Config) : (s.afterReset c).idx = 0#8 := rfl
@[simp] theorem State.afterReset_pbuf (s : State) (c : Config) : (s.afterReset c).pbuf = [] := rfl
@[simp] theorem State.afterReset_c0 (s : State) (c : Config) : (s.afterReset c).c0 = none := rfl
@[simp] theorem State.afterReset_hdrDone (s : State) (c : Config) : (s.afterReset c).hdrDone = false := rfl
@[simp] theorem State.afterReset_total (s : State) (c : Config) : (s.afterReset c).total = 0 := rfl
@[simp] theorem State.afterReset_valid (s : State) (c : Config) : (s.afterReset c).valid = 0 := rfl
@[simp] theorem State.afterReset_input (s : State) (c : Config) : (s.afterReset c).input = s.input := rfl
@[simp] theorem State.afterReset_events (s : State) (c : Config) : (s.afterReset c).events = [] := rfl

/-! ### `countCandidate` -/

@[simp] theorem State.countCandidate_cfg (s : State) : (s.countCandidate).cfg = s.cfg := rfl
@[simp] theorem State.countCandidate_st (s : State) : (s.countCandidate).st = s.st := rfl
@[simp] theorem State.countCandidate_idx (s : State) : (s.countCandidate).idx = s.idx := rfl
@[simp] theorem State.countCandidate_pbuf (s : State) : (s.countCandidate).pbuf = s.pbuf := rfl
@[simp] theorem State.countCandidate_c0 (s : State) : (s.countCandidate).c0 = s.c0 := rfl
@[simp] theorem State.countCandidate_hdrDone (s : State) : (s.countCandidate).hdrDone = s.hdrDone := rfl
@[simp] theorem State.countCandidate_total (s : State) : (s.countCandidate).total = satInc s.cfg s.total := rfl
@[simp] theorem State.countCandidate_valid (s : State) : (s.countCandidate).valid = s.valid := rfl
@[simp] theorem State.countCandidate_input (s : State) : (s.countCandidate).input = s.input := rfl
@[simp] theorem State.countCandidate_events (s : State) : (s.countCandidate).events = s.events := rfl

/-! ### `countValid` -/

@[simp] theorem State.countValid_cfg (s : State) : (s.countValid).cfg = s.cfg := rfl
@[simp] theorem State.countValid_st (s : State) : (s.countValid).st = s.st := rfl
@[simp] theorem State.countValid_idx (s : State) : (s.countValid).idx = s.idx := rfl
@[simp] theorem State.countValid_pbuf (s : State) : (s.countValid).pbuf = s.pbuf := rfl
@[simp] theorem State.countValid_c0 (s : State) : (s.countValid).c0 = s.c0 := rfl
@[simp] theorem State.countValid_hdrDone (s : State) : (s.countValid).hdrDone = s.hdrDone := rfl
@[simp] theorem State.countValid_total (s : State) : (s.countValid).total = s.total := rfl
@[simp] theorem State.countValid_valid (s : State) : (s.countValid).valid = satInc s.cfg s.valid := rfl
@[simp] theorem State.countValid_input (s : State) : (s.countValid).input = s.input := rfl
@[simp] theorem State.countValid_events (s : State) : (s.countValid).events = s.events := rfl

/-! ### `headerOnce` -/

@[simp] theorem State.headerOnce_cfg (s : State) : s.headerOnce.cfg = s.cfg := by
  cases h : s.hdrDone <;> simp [State.headerOnce, h]
@[simp] theorem State.headerOnce_st (s : State) : s.headerOnce.st = s.st := by
  cases h : s.hdrDone <;> simp [State.headerOnce, h]
@[simp] theorem State.headerOnce_idx (s : State) : s.headerOnce.idx = s.idx := by
  cases h : s.hdrDone <;> simp [State.headerOnce, h]
@[simp] theorem State.headerOnce_pbuf (s : State) : s.headerOnce.pbuf = s.pbuf := by
  cases h : s.hdrDone <;> simp [State.headerOnce, h]
@[simp] theorem State.headerOnce_c0 (s : State) : s.headerOnce.c0 = s.c0 := by
  cases h : s.hdrDone <;> simp [State.headerOnce, h]
@[simp] theorem State.headerOnce_hdrDone (s : State) : s.headerOnce.hdrDone = true := by
  cases h : s.hdrDone <;> simp [State.headerOnce, h]
@[simp] theorem State.headerOnce_total (s : State) : s.headerOnce.total = s.total := by
  cases h : s.hdrDone <;> simp [State.headerOnce, h]
@[simp] theorem State.headerOnce_valid (s : State) : s.headerOnce.valid = s.valid := by
  cases h : s.hdrDone <;> simp [State.headerOnce, h]
@[simp] theorem State.headerOnce_input (s : State) : s.headerOnce.input = s.input := by
  cases h : s.hdrDone <;> simp [State.headerOnce, h]
@[simp] theorem State.headerOnce_events (s : State) :
    s.headerOnce.events = s.events ++ if s.hdrDone then [] else [.hdr] := by
  cases h : s.hdrDone <;> simp [State.headerOnce, h]

end Sys2Proof.Machine
end

