-- ==== Sys2Proof/Laws/Exec.lean ====
section
/-! SUPPORT. One law per meaning and per shared operation: what it answers, in one equation or one inversion, so that no later proof
unfolds it. -/

namespace Sys2Proof

/-! ### The configuration -/

theorem Config.plen_pos {c : Config} (h : c.wf = true) : 1 ≤ c.plen := by
  simp only [Config.wf, Bool.and_eq_true, decide_eq_true_eq] at h; unfold Config.plen; omega

theorem Config.plen_le (c : Config) : c.plen ≤ 253 := by
  have := c.lenConst.isLt; unfold Config.plen; omega

namespace Machine

/-! ### The counters (R107, R108) -/

theorem satInc_of_lt {c : Config} {v : Nat} (h : v < c.maxCount) : satInc c v = v + 1 := by
  simp [satInc, Nat.ne_of_lt h]

theorem satInc_max (c : Config) : satInc c c.maxCount = c.maxCount := by simp [satInc]

theorem satInc_le_max {c : Config} {v : Nat} (h : v ≤ c.maxCount) : satInc c v ≤ c.maxCount := by
  unfold satInc; split <;> omega

/-- Two counters in order stay in order when both are incremented (R29). -/
theorem satInc_mono {c : Config} {v t : Nat} (h : v ≤ t) (ht : t ≤ c.maxCount) : satInc c v ≤ satInc c t := by
  unfold satInc; split <;> split <;> omega

theorem le_satInc (c : Config) (v : Nat) : v ≤ satInc c v := by
  unfold satInc; split <;> omega

theorem lt_two_pow_of_le_maxCount {c : Config} {v : Nat} (h : v ≤ c.maxCount) : v < 2 ^ c.cntW := by
  have := Nat.two_pow_pos c.cntW; unfold Config.maxCount at h; omega

/-- Below `2^CNT_W` and in order, the subtraction of R108 does not borrow. -/
theorem countDiff_eq {cntW t v : Nat} (h : v ≤ t) (ht : t < 2 ^ cntW) : countDiff cntW t v = t - v := by
  have hv : v < 2 ^ cntW := by omega
  simp only [countDiff, BitVec.toNat_sub, BitVec.toNat_ofNat, Nat.mod_eq_of_lt ht, Nat.mod_eq_of_lt hv]
  rw [show 2 ^ cntW - v + t = (t - v) + 2 ^ cntW by omega, Nat.add_mod_right, Nat.mod_eq_of_lt (by omega)]

/-! ### Reading one byte: R101 to R103 -/

theorem execByteSearchSync_eq (d : Byte) (s : State) :
    execByteSearchSync d s = .next { s with st := if d = s.cfg.sync then St.readSync else St.searchSync } := by
  unfold execByteSearchSync; split <;> rfl

theorem execByteReadSync_eq (d : Byte) (s : State) :
    execByteReadSync d s = .next { s with st := if d = s.cfg.sync then St.readLength else St.searchSync } := by
  unfold execByteReadSync; split <;> rfl

theorem execByteReadLength_eq (d : Byte) (s : State) :
    execByteReadLength d s =
      .next (if d = s.cfg.lenConst then { s with idx := 0#8, st := St.readPacket } else { s with st := St.searchSync }) := by
  unfold execByteReadLength; split <;> rfl

theorem execByteReadLength_match {d : Byte} {s : State} (h : d = s.cfg.lenConst) :
    execByteReadLength d s = .next { s with idx := 0#8, st := St.readPacket } := by
  rw [execByteReadLength_eq, if_pos h]

theorem execByteReadLength_mismatch {d : Byte} {s : State} (h : d ≠ s.cfg.lenConst) :
    execByteReadLength d s = .next { s with st := St.searchSync } := by
  rw [execByteReadLength_eq, if_neg h]

/-! ### The payload: R104 -/

theorem execByteReadPacket_range {d : Byte} {s : State} (h : s.cfg.plen ≤ s.idx.toNat) :
    execByteReadPacket d s = raiseIllegalState := by
  unfold execByteReadPacket; rw [if_neg (by omega)]

theorem execByteReadPacket_more {d : Byte} {s : State} (h : s.idx.toNat + 1 < s.cfg.plen) :
    execByteReadPacket d s = .next { s with pbuf := s.pbuf.write s.idx.toNat d, idx := s.idx + 1#8 } := by
  unfold execByteReadPacket; rw [if_pos (by omega), if_pos h]; rfl

/-- The end of the read of the payload (R104). -/
theorem closePacket_eq {s : State} {id : Byte} (hid : s.pbuf.read 0 = some id) :
    closePacket s =
      .next { s with idx := 0#8, st := if id = s.cfg.deviceId then St.readChecksum else St.searchSync } := by
  unfold closePacket
  rw [hid]
  by_cases hd : id = s.cfg.deviceId
  · simp only [hd, if_true]; rfl
  · simp only [hd, if_false]; rfl

theorem execByteReadPacket_last {d id : Byte} {s : State} (h : s.idx.toNat + 1 = s.cfg.plen)
    (hid : (s.pbuf.write s.idx.toNat d).read 0 = some id) :
    execByteReadPacket d s =
      .next { s with
        pbuf := s.pbuf.write s.idx.toNat d
        idx := 0#8
        st := if id = s.cfg.deviceId then St.readChecksum else St.searchSync } := by
  unfold execByteReadPacket
  rw [if_pos (by omega), if_neg (by omega)]
  exact closePacket_eq (s := s.memWrite s.idx.toNat d) hid

theorem execByteReadPacket_unwritten {d : Byte} {s : State} (h : s.idx.toNat + 1 = s.cfg.plen)
    (hid : (s.pbuf.write s.idx.toNat d).read 0 = none) : execByteReadPacket d s = raiseIllegalState := by
  unfold execByteReadPacket
  rw [if_pos (by omega), if_neg (by omega)]
  simp only [closePacket, State.memWrite_pbuf, hid]

/-- Everything BYTE.READ_PACKET can do when it answers a next state. -/
theorem execByteReadPacket_next {d : Byte} {s t : State} (h : execByteReadPacket d s = .next t) :
    (s.idx.toNat + 1 < s.cfg.plen ∧ t = { s with pbuf := s.pbuf.write s.idx.toNat d, idx := s.idx + 1#8 }) ∨
    (s.idx.toNat + 1 = s.cfg.plen ∧ ∃ id, (s.pbuf.write s.idx.toNat d).read 0 = some id ∧
      t = { s with
        pbuf := s.pbuf.write s.idx.toNat d
        idx := 0#8
        st := if id = s.cfg.deviceId then St.readChecksum else St.searchSync }) := by
  rcases lt_trichotomy (s.idx.toNat + 1) s.cfg.plen with hl | hl | hl
  · rw [execByteReadPacket_more hl] at h; cases h; exact .inl ⟨hl, rfl⟩
  · cases hid : (s.pbuf.write s.idx.toNat d).read 0 with
    | none => rw [execByteReadPacket_unwritten hl hid] at h; cases h
    | some id => rw [execByteReadPacket_last hl hid] at h; cases h; exact .inr ⟨hl, id, rfl, rfl⟩
  · rw [execByteReadPacket_range (by omega)] at h; cases h

/-! ### The candidate: R105, R106 -/

theorem accept_structural {p : List Byte} {s : State} (h : unpack p = .structuralDecodeError) : accept p s = s := by
  simp [accept, h]

theorem accept_record {p : List Byte} {s : State} {r : Record} (h : unpack p = .record r) :
    accept p s = { s with
      hdrDone := true
      events := s.events ++ (if s.hdrDone then [.record r] else [.hdr, .record r]) } := by
  cases hs : s.hdrDone <;> simp [accept, h, State.headerOnce, State.emit, hs]

theorem evaluate_mismatch {c0 c1 : Byte} {p : List Byte} {s : State} (h : checksumOk s.cfg c0 c1 p = false) :
    evaluate c0 c1 p s = { s with total := satInc s.cfg s.total, idx := 0#8, st := St.searchSync } := by
  simp only [evaluate, h]; rfl

theorem evaluate_structural {c0 c1 : Byte} {p : List Byte} {s : State} (h : checksumOk s.cfg c0 c1 p = true)
    (hu : unpack p = .structuralDecodeError) :
    evaluate c0 c1 p s =
      { s with total := satInc s.cfg s.total, valid := satInc s.cfg s.valid, idx := 0#8, st := St.searchSync } := by
  simp only [evaluate, h, if_true, accept_structural hu]; rfl

theorem evaluate_record {c0 c1 : Byte} {p : List Byte} {s : State} {r : Record} (h : checksumOk s.cfg c0 c1 p = true)
    (hu : unpack p = .record r) :
    evaluate c0 c1 p s =
      { s with
        total := satInc s.cfg s.total, valid := satInc s.cfg s.valid, idx := 0#8, st := St.searchSync, hdrDone := true
        events := s.events ++ (if s.hdrDone then [.record r] else [.hdr, .record r]) } := by
  simp only [evaluate, h, if_true, accept_record hu]; rfl

theorem execByteReadChecksum_range {d : Byte} {s : State} (h : 1 < s.idx.toNat) :
    execByteReadChecksum d s = raiseIllegalState := by
  unfold execByteReadChecksum; rw [if_neg (by omega)]

theorem execByteReadChecksum_first {d : Byte} {s : State} (h : s.idx = 0#8) :
    execByteReadChecksum d s = .next { s with c0 := some d, idx := 1#8 } := by
  unfold execByteReadChecksum; rw [if_pos (by simp [h]), if_pos h]

theorem execByteReadChecksum_second {d c0 : Byte} {p : List Byte} {s : State} (h : s.idx = 1#8) (hc : s.c0 = some c0)
    (hp : s.payload = some p) : execByteReadChecksum d s = .next (evaluate c0 d p s) := by
  unfold execByteReadChecksum; rw [if_pos (by simp [h]), if_neg (by simp [h])]; simp only [hc, hp]

/-- Everything BYTE.READ_CHECKSUM can do when it answers a next state. -/
theorem execByteReadChecksum_next {d : Byte} {s t : State} (h : execByteReadChecksum d s = .next t) :
    (s.idx = 0#8 ∧ t = { s with c0 := some d, idx := 1#8 }) ∨
    (s.idx = 1#8 ∧ ∃ c0 p, s.c0 = some c0 ∧ s.payload = some p ∧ t = evaluate c0 d p s) := by
  unfold execByteReadChecksum at h
  split at h
  · rename_i hi
    split at h
    · cases h; exact .inl ⟨‹_›, rfl⟩
    · rename_i h0
      have h1 : s.idx = 1#8 := by
        have : s.idx.toNat ≠ 0 := fun hz => h0 (BitVec.eq_of_toNat_eq (by simpa using hz))
        exact BitVec.eq_of_toNat_eq (by simp; omega)
      split at h
      · cases h; exact .inr ⟨h1, _, _, ‹_›, ‹_›, rfl⟩
      · cases h
  · cases h

/-- The three outcomes of an evaluation, each as one update of the state. -/
theorem evaluate_cases (c0 c1 : Byte) (p : List Byte) (s : State) :
    (checksumOk s.cfg c0 c1 p = false ∧
      evaluate c0 c1 p s = { s with total := satInc s.cfg s.total, idx := 0#8, st := St.searchSync }) ∨
    (checksumOk s.cfg c0 c1 p = true ∧ unpack p = .structuralDecodeError ∧
      evaluate c0 c1 p s =
        { s with total := satInc s.cfg s.total, valid := satInc s.cfg s.valid, idx := 0#8, st := St.searchSync }) ∨
    (checksumOk s.cfg c0 c1 p = true ∧ ∃ r, unpack p = .record r ∧
      evaluate c0 c1 p s =
        { s with
          total := satInc s.cfg s.total, valid := satInc s.cfg s.valid, idx := 0#8, st := St.searchSync, hdrDone := true
          events := s.events ++ (if s.hdrDone then [.record r] else [.hdr, .record r]) }) := by
  cases h : checksumOk s.cfg c0 c1 p with
  | false => exact .inl ⟨rfl, evaluate_mismatch h⟩
  | true =>
    cases hu : unpack p with
    | structuralDecodeError => exact .inr (.inl ⟨rfl, rfl, evaluate_structural h hu⟩)
    | record r => exact .inr (.inr ⟨rfl, r, rfl, evaluate_record h hu⟩)

/-! ### Any instruction -/

/-- EOI in a state that reads one byte (R108). -/
theorem exec_eoi {i : Instr} {s : State} {d : Byte} (h : i ∈ [Instr.eoiSearchSync d, .eoiReadSync d, .eoiReadLength d]) :
    exec i s = .next s.printStats := by
  simp only [List.mem_cons, List.not_mem_nil, or_false] at h
  rcases h with rfl | rfl | rfl <;> rfl

theorem execEoiReadPacket_inRange {s : State} (h : s.packetInRange) : execEoiReadPacket s = .next s.printStats := if_pos h

theorem execEoiReadPacket_range {s : State} (h : s.cfg.plen ≤ s.idx.toNat) : execEoiReadPacket s = raiseIllegalState :=
  if_neg (Nat.not_lt.2 h)

/-- Everything EOI.READ_PACKET can do when it answers a next state. -/
theorem execEoiReadPacket_next {s t : State} (h : execEoiReadPacket s = .next t) : s.packetInRange ∧ t = s.printStats := by
  unfold execEoiReadPacket at h
  split at h <;> cases h
  exact ⟨‹_›, rfl⟩

theorem execEoiReadChecksum_inRange {s : State} (h : s.checksumInRange) : execEoiReadChecksum s = .next s.printStats := if_pos h

theorem execEoiReadChecksum_range {s : State} (h : 1 < s.idx.toNat) : execEoiReadChecksum s = raiseIllegalState :=
  if_neg (Nat.not_le.2 h)

/-- Everything EOI.READ_CHECKSUM can do when it answers a next state. -/
theorem execEoiReadChecksum_next {s t : State} (h : execEoiReadChecksum s = .next t) : s.checksumInRange ∧ t = s.printStats := by
  unfold execEoiReadChecksum at h
  split at h <;> cases h
  exact ⟨‹_›, rfl⟩

/-- No meaning writes the configuration or the host's moves. -/
theorem evaluate_frame (c0 c1 : Byte) (p : List Byte) (s : State) :
    (evaluate c0 c1 p s).cfg = s.cfg ∧ (evaluate c0 c1 p s).input = s.input ∧ (evaluate c0 c1 p s).pbuf = s.pbuf ∧
      (evaluate c0 c1 p s).c0 = s.c0 := by
  cases h : checksumOk s.cfg c0 c1 p with
  | false => rw [evaluate_mismatch h]; exact ⟨rfl, rfl, rfl, rfl⟩
  | true =>
    cases hu : unpack p with
    | structuralDecodeError => rw [evaluate_structural h hu]; exact ⟨rfl, rfl, rfl, rfl⟩
    | record r => rw [evaluate_record h hu]; exact ⟨rfl, rfl, rfl, rfl⟩

/-- No instruction writes the configuration or the host's moves. -/
theorem exec_frame {s t : State} {i : Instr} (h : exec i s = .next t) : t.cfg = s.cfg ∧ t.input = s.input := by
  cases i <;> simp only [exec] at h
  case byteReadPacket d =>
    rcases execByteReadPacket_next h with ⟨_, rfl⟩ | ⟨_, _, _, rfl⟩ <;> exact ⟨rfl, rfl⟩
  case byteReadChecksum d =>
    rcases execByteReadChecksum_next h with ⟨_, rfl⟩ | ⟨_, c0, p, _, _, rfl⟩
    · exact ⟨rfl, rfl⟩
    · have := evaluate_frame c0 d p s; exact ⟨this.1, this.2.1⟩
  case eoiReadPacket d => rw [(execEoiReadPacket_next h).2]; exact ⟨rfl, rfl⟩
  case eoiReadChecksum d => rw [(execEoiReadChecksum_next h).2]; exact ⟨rfl, rfl⟩
  case byteSearchSync d => rw [execByteSearchSync_eq] at h; cases h; exact ⟨rfl, rfl⟩
  case byteReadSync d => rw [execByteReadSync_eq] at h; cases h; exact ⟨rfl, rfl⟩
  case byteReadLength d => rw [execByteReadLength_eq] at h; cases h; constructor <;> split <;> rfl
  all_goals cases h <;> exact ⟨rfl, rfl⟩

end Machine
end Sys2Proof
end

