-- ==== Sys2Proof/Laws/Operands.lean ====
section
/-! SUPPORT. The operand assembly as arithmetic, and its inverses. -/

namespace Sys2Proof.Machine

/-- `le16` as arithmetic (R10). -/
theorem le16_toNat (b0 b1 : Byte) : (le16 b0 b1).toNat = b0.toNat + 2 ^ 8 * b1.toNat := by
  have h0 := b0.isLt
  have h1 := b1.isLt
  unfold le16
  rw [BitVec.toNat_or, BitVec.toNat_shiftLeft, BitVec.toNat_setWidth, BitVec.toNat_setWidth, Nat.mod_eq_of_lt (a := b0.toNat) (by omega),
    Nat.mod_eq_of_lt (a := b1.toNat) (by omega), Nat.shiftLeft_eq, Nat.mod_eq_of_lt (by omega), Nat.or_comm, Nat.mul_comm,
    ← Nat.two_pow_add_eq_or_of_lt h0, Nat.add_comm]

/-- `le32` lays the bytes side by side, the first one lowest (R10). -/
theorem le32_eq_append (b0 b1 b2 b3 : Byte) : le32 b0 b1 b2 b3 = (b3 ++ b2 ++ b1 ++ b0 : BitVec 32) := by
  unfold le32; ext i hi; simp; grind

/-- `le32` as arithmetic (R10). -/
theorem le32_toNat (b0 b1 b2 b3 : Byte) :
    (le32 b0 b1 b2 b3).toNat = b0.toNat + 2 ^ 8 * b1.toNat + 2 ^ 16 * b2.toNat + 2 ^ 24 * b3.toNat := by
  rw [le32_eq_append]
  simp only [BitVec.toNat_append, Nat.shiftLeft_eq, Nat.mul_comm _ (2 ^ 8)]
  rw [← Nat.two_pow_add_eq_or_of_lt b2.isLt, ← Nat.two_pow_add_eq_or_of_lt b1.isLt, ← Nat.two_pow_add_eq_or_of_lt b0.isLt]
  omega

/-- The bytes of a half-word compose to it. -/
theorem le16_bytes (v : Half) : le16 (v.extractLsb' 0 8) (v.extractLsb' 8 8) = v := by
  unfold le16; ext i hi; simp; grind

/-- The bytes of a word compose to it. -/
theorem le32_bytes (v : Word) :
    le32 (v.extractLsb' 0 8) (v.extractLsb' 8 8) (v.extractLsb' 16 8) (v.extractLsb' 24 8) = v := by
  unfold le32; ext i hi; simp; grind

/-- What `compose` reads is what `checksumBytes` writes, in both orders. -/
theorem compose_checksumBytes (order : CsumOrder) (crc : Half) :
    ∃ k0 k1, checksumBytes order crc = [k0, k1] ∧ compose order k0 k1 = crc := by
  have h : (crc.extractLsb' 8 8).setWidth 16 <<< 8 ||| (crc.extractLsb' 0 8).setWidth 16 = crc := by
    ext i hi; simp; grind
  cases order <;> exact ⟨_, _, rfl, h⟩

end Sys2Proof.Machine
end

