-- ==== Sys2Proof/Laws/PerInstr.lean ====
section
/-! SUPPORT. Statements about every instruction as syntax, one lemma per constructor. -/

namespace Sys2Proof.Laws

/-- The encoded key of an instruction fits its own row of the opcode map (R63), carries its row's `st`, and the instruction runs in
that state. -/
def KeyInRow.Statement (i : Instr) : Prop :=
  (∃ r ∈ opcodeRows, r.mnemonic = i.mnemonic ∧ r.fits (encode i) = true) ∧ Key.st (encode i) = i.st ∧ i.runsIn i.st = true

theorem KeyInRow.byteSearchSync : ∀ d, KeyInRow.Statement (.byteSearchSync d) := by unfold KeyInRow.Statement; decide +kernel
theorem KeyInRow.eoiSearchSync : ∀ d, KeyInRow.Statement (.eoiSearchSync d) := by unfold KeyInRow.Statement; decide +kernel
theorem KeyInRow.byteReadSync : ∀ d, KeyInRow.Statement (.byteReadSync d) := by unfold KeyInRow.Statement; decide +kernel
theorem KeyInRow.eoiReadSync : ∀ d, KeyInRow.Statement (.eoiReadSync d) := by unfold KeyInRow.Statement; decide +kernel
theorem KeyInRow.byteReadLength : ∀ d, KeyInRow.Statement (.byteReadLength d) := by unfold KeyInRow.Statement; decide +kernel
theorem KeyInRow.eoiReadLength : ∀ d, KeyInRow.Statement (.eoiReadLength d) := by unfold KeyInRow.Statement; decide +kernel
theorem KeyInRow.byteReadPacket : ∀ d, KeyInRow.Statement (.byteReadPacket d) := by unfold KeyInRow.Statement; decide +kernel
theorem KeyInRow.eoiReadPacket : ∀ d, KeyInRow.Statement (.eoiReadPacket d) := by unfold KeyInRow.Statement; decide +kernel
theorem KeyInRow.byteReadChecksum : ∀ d, KeyInRow.Statement (.byteReadChecksum d) := by unfold KeyInRow.Statement; decide +kernel
theorem KeyInRow.eoiReadChecksum : ∀ d, KeyInRow.Statement (.eoiReadChecksum d) := by unfold KeyInRow.Statement; decide +kernel
theorem KeyInRow.illegalSt5 : ∀ k d, KeyInRow.Statement (.illegalSt5 k d) := by unfold KeyInRow.Statement; decide +kernel
theorem KeyInRow.illegalSt6 : ∀ k d, KeyInRow.Statement (.illegalSt6 k d) := by unfold KeyInRow.Statement; decide +kernel
theorem KeyInRow.anyExiting : ∀ k d, KeyInRow.Statement (.anyExiting k d) := by unfold KeyInRow.Statement; decide +kernel

end Sys2Proof.Laws
end

