-- ==== Sys2Proof/Laws/Step.lean ====
section
/-! SUPPORT. One inversion lemma for the step: everything it can do when it answers a next state. -/

namespace Sys2Proof.Machine

/-- A step that runs a token. -/
theorem step_present {s : State} {t : Token} {rest : List HostMove} (hc : s.cfg.wf = true)
    (hi : s.input = .present t :: rest) : step s = exec (s.dispatch t) { s with input := rest } := by
  simp only [step, hi, runToken, hc, if_true]; rfl

/-- A step with RESET asserted. -/
theorem step_reset {s : State} {c : Config} {held : Option Token} {rest : List HostMove} (hc : c.wf = true)
    (hi : s.input = .reset c held :: rest) : step s = .next { State.reset with cfg := c, input := rest } := by
  simp only [step, hi, takeReset, hc, if_true, State.afterReset]

/-- Everything a step can do when it answers a next state: wait, reset, or run the token's rule. -/
theorem step_cases {s t : State} (h : step s = .next t) :
    (s.cfg.wf = true ∧ s.input = [] ∧ t = s) ∨
    (∃ rest, s.cfg.wf = true ∧ s.input = .pause :: rest ∧ t = { s with input := rest }) ∨
    (∃ c held rest, c.wf = true ∧ s.input = .reset c held :: rest ∧ t = { State.reset with cfg := c, input := rest }) ∨
    (∃ tok rest, s.cfg.wf = true ∧ s.input = .present tok :: rest ∧
      exec (s.dispatch tok) { s with input := rest } = .next t) := by
  unfold step at h
  split at h
  · rename_i hi
    simp only [wait] at h; split at h
    · cases h; exact .inl ⟨‹_›, hi, rfl⟩
    · cases h
  · rename_i rest hi
    simp only [wait] at h; split at h
    · cases h; exact .inr (.inl ⟨rest, ‹_›, hi, rfl⟩)
    · cases h
  · rename_i c held rest hi
    simp only [takeReset] at h; split at h
    · cases h; exact .inr (.inr (.inl ⟨c, held, rest, ‹_›, hi, rfl⟩))
    · cases h
  · rename_i tok rest hi
    simp only [runToken] at h; split at h
    · exact .inr (.inr (.inr ⟨tok, rest, ‹_›, hi, h⟩))
    · cases h

/-- What a token does, by the state it meets: the thirteen rows, each with its inverted meaning. -/
theorem exec_dispatch_cases {s t : State} {tok : Token} (h : exec (s.dispatch tok) s = .next t) :
    (s.st = St.searchSync ∧ Token.k tok = 0#1 ∧
      t = { s with st := if Token.d tok = s.cfg.sync then St.readSync else St.searchSync }) ∨
    (s.st = St.readSync ∧ Token.k tok = 0#1 ∧
      t = { s with st := if Token.d tok = s.cfg.sync then St.readLength else St.searchSync }) ∨
    (s.st = St.readLength ∧ Token.k tok = 0#1 ∧ Token.d tok = s.cfg.lenConst ∧ t = { s with idx := 0#8, st := St.readPacket }) ∨
    (s.st = St.readLength ∧ Token.k tok = 0#1 ∧ Token.d tok ≠ s.cfg.lenConst ∧ t = { s with st := St.searchSync }) ∨
    (s.st = St.readPacket ∧ Token.k tok = 0#1 ∧ execByteReadPacket (Token.d tok) s = .next t) ∨
    (s.st = St.readChecksum ∧ Token.k tok = 0#1 ∧ execByteReadChecksum (Token.d tok) s = .next t) ∨
    (s.st.toNat ≤ 4 ∧ Token.k tok = 1#1 ∧ (s.st = St.readPacket → s.packetInRange) ∧ (s.st = St.readChecksum → s.checksumInRange) ∧
      t = s.printStats) ∨
    (s.st = St.exiting ∧ t = s) := by
  have next_inj : ∀ {a b : State}, (Host.Outcome.next a : Result) = .next b → b = a := fun h => by cases h; rfl
  rcases kind_cases (Token.k tok) with hk | hk <;>
    rcases st_cases s.st with hs | hs | hs | hs | hs | hs | hs | hs
  · rw [dispatch_searchSync_byte hs hk] at h; simp only [exec, execByteSearchSync_eq] at h
    exact .inl ⟨hs, hk, next_inj h⟩
  · rw [dispatch_readSync_byte hs hk] at h; simp only [exec, execByteReadSync_eq] at h
    exact .inr (.inl ⟨hs, hk, next_inj h⟩)
  · rw [dispatch_readLength_byte hs hk] at h; simp only [exec, execByteReadLength_eq] at h
    split at h
    · exact .inr (.inr (.inl ⟨hs, hk, ‹_›, next_inj h⟩))
    · exact .inr (.inr (.inr (.inl ⟨hs, hk, ‹_›, next_inj h⟩)))
  · rw [dispatch_readPacket_byte hs hk] at h; simp only [exec] at h
    exact .inr (.inr (.inr (.inr (.inl ⟨hs, hk, h⟩))))
  · rw [dispatch_readChecksum_byte hs hk] at h; simp only [exec] at h
    exact .inr (.inr (.inr (.inr (.inr (.inl ⟨hs, hk, h⟩)))))
  · rw [dispatch_st5 hs] at h; simp [exec, execIllegalSt5, raiseIllegalState] at h
  · rw [dispatch_st6 hs] at h; simp [exec, execIllegalSt6, raiseIllegalState] at h
  · rw [dispatch_exiting hs] at h; simp only [exec, execAnyExiting] at h
    exact .inr (.inr (.inr (.inr (.inr (.inr (.inr ⟨hs, next_inj h⟩))))))
  · rw [dispatch_searchSync_eoi hs hk] at h; simp only [exec, execEoiSearchSync] at h
    exact .inr (.inr (.inr (.inr (.inr (.inr (.inl ⟨by simp [hs], hk, by simp [hs], by simp [hs], next_inj h⟩))))))
  · rw [dispatch_readSync_eoi hs hk] at h; simp only [exec, execEoiReadSync] at h
    exact .inr (.inr (.inr (.inr (.inr (.inr (.inl ⟨by simp [hs], hk, by simp [hs], by simp [hs], next_inj h⟩))))))
  · rw [dispatch_readLength_eoi hs hk] at h; simp only [exec, execEoiReadLength] at h
    exact .inr (.inr (.inr (.inr (.inr (.inr (.inl ⟨by simp [hs], hk, by simp [hs], by simp [hs], next_inj h⟩))))))
  · rw [dispatch_readPacket_eoi hs hk] at h; simp only [exec] at h
    have ⟨hi, e⟩ := execEoiReadPacket_next h
    exact .inr (.inr (.inr (.inr (.inr (.inr (.inl ⟨by simp [hs], hk, fun _ => hi, by simp [hs], e⟩))))))
  · rw [dispatch_readChecksum_eoi hs hk] at h; simp only [exec] at h
    have ⟨hi, e⟩ := execEoiReadChecksum_next h
    exact .inr (.inr (.inr (.inr (.inr (.inr (.inl ⟨by simp [hs], hk, by simp [hs], fun _ => hi, e⟩))))))
  · rw [dispatch_st5 hs] at h; simp [exec, execIllegalSt5, raiseIllegalState] at h
  · rw [dispatch_st6 hs] at h; simp [exec, execIllegalSt6, raiseIllegalState] at h
  · rw [dispatch_exiting hs] at h; simp only [exec, execAnyExiting] at h
    exact .inr (.inr (.inr (.inr (.inr (.inr (.inr ⟨hs, next_inj h⟩))))))

end Sys2Proof.Machine
end

