-- ==== Sys2Proof/Laws/Run.lean ====
section
/-! SUPPORT. Several steps, and the steps of a machine that is fed bytes: one equation per state. -/

namespace Sys2Proof.Machine

/-- The first of several steps, when it answers a next state. -/
theorem steps_succ {n : Nat} {s t : State} (h : step s = .next t) : steps (n + 1) s = steps n t := by
  simp only [steps, h]

/-- Several steps that end in a state begin with a step that does. -/
theorem steps_succ_next {n : Nat} {s t : State} (h : steps (n + 1) s = .next t) :
    ∃ u, step s = .next u ∧ steps n u = .next t := by
  cases hs : step s with
  | next u => exact ⟨u, rfl, by rwa [steps_succ hs] at h⟩
  | fault f => simp [steps, hs] at h
  | refused r => simp [steps, hs] at h

/-- Steps in two stretches. -/
theorem steps_add {m n : Nat} {s u : State} (h : steps m s = .next u) : steps (m + n) s = steps n u := by
  induction m generalizing s with
  | zero => cases h; rw [Nat.zero_add]
  | succ m ih =>
    obtain ⟨v, hv, hu⟩ := steps_succ_next h
    rw [Nat.add_right_comm, steps_succ hv, ih hu]

/-- A step that is fed a byte runs the byte's rule on the state with the byte consumed. -/
theorem step_fed {s : State} {b : Byte} {bs : List Byte} {rest : List HostMove} (hc : s.cfg.wf = true) :
    step (s.fed (b :: bs) rest) = exec (s.dispatch (Token.byte b)) (s.fed bs rest) :=
  step_present (s := s.fed (b :: bs) rest) (t := Token.byte b) (rest := presentBytes bs ++ rest) hc rfl

theorem step_fed_searchSync {s : State} {b : Byte} {bs : List Byte} {rest : List HostMove} (hc : s.cfg.wf = true)
    (hs : s.st = St.searchSync) :
    step (s.fed (b :: bs) rest) =
      .next ({ s with st := if b = s.cfg.sync then St.readSync else St.searchSync }.fed bs rest) := by
  rw [step_fed hc, dispatch_searchSync_byte hs (Token.byte_k b), Token.byte_d]; exact execByteSearchSync_eq b _

theorem step_fed_readSync {s : State} {b : Byte} {bs : List Byte} {rest : List HostMove} (hc : s.cfg.wf = true)
    (hs : s.st = St.readSync) :
    step (s.fed (b :: bs) rest) =
      .next ({ s with st := if b = s.cfg.sync then St.readLength else St.searchSync }.fed bs rest) := by
  rw [step_fed hc, dispatch_readSync_byte hs (Token.byte_k b), Token.byte_d]; exact execByteReadSync_eq b _

theorem step_fed_readLength_match {s : State} {bs : List Byte} {rest : List HostMove} (hc : s.cfg.wf = true)
    (hs : s.st = St.readLength) :
    step (s.fed (s.cfg.lenConst :: bs) rest) = .next ({ s with idx := 0#8, st := St.readPacket }.fed bs rest) := by
  rw [step_fed hc, dispatch_readLength_byte hs (Token.byte_k _), Token.byte_d]
  exact execByteReadLength_match (s := s.fed bs rest) rfl

theorem step_fed_readLength_mismatch {s : State} {b : Byte} {bs : List Byte} {rest : List HostMove} (hc : s.cfg.wf = true)
    (hs : s.st = St.readLength) (hb : b ≠ s.cfg.lenConst) :
    step (s.fed (b :: bs) rest) = .next ({ s with st := St.searchSync }.fed bs rest) := by
  rw [step_fed hc, dispatch_readLength_byte hs (Token.byte_k _), Token.byte_d]
  exact execByteReadLength_mismatch (s := s.fed bs rest) hb

theorem step_fed_readPacket_more {s : State} {b : Byte} {bs : List Byte} {rest : List HostMove} (hc : s.cfg.wf = true)
    (hs : s.st = St.readPacket) (hi : s.idx.toNat + 1 < s.cfg.plen) :
    step (s.fed (b :: bs) rest) =
      .next ({ s with pbuf := s.pbuf.write s.idx.toNat b, idx := s.idx + 1#8 }.fed bs rest) := by
  rw [step_fed hc, dispatch_readPacket_byte hs (Token.byte_k _), Token.byte_d]; exact execByteReadPacket_more hi

theorem step_fed_readPacket_last {s : State} {b id : Byte} {bs : List Byte} {rest : List HostMove} (hc : s.cfg.wf = true)
    (hs : s.st = St.readPacket) (hi : s.idx.toNat + 1 = s.cfg.plen)
    (hid : (s.pbuf.write s.idx.toNat b).read 0 = some id) :
    step (s.fed (b :: bs) rest) =
      .next ({ s with
        pbuf := s.pbuf.write s.idx.toNat b
        idx := 0#8
        st := if id = s.cfg.deviceId then St.readChecksum else St.searchSync }.fed bs rest) := by
  rw [step_fed hc, dispatch_readPacket_byte hs (Token.byte_k _), Token.byte_d]; exact execByteReadPacket_last hi hid

theorem step_fed_readChecksum_first {s : State} {b : Byte} {bs : List Byte} {rest : List HostMove} (hc : s.cfg.wf = true)
    (hs : s.st = St.readChecksum) (hi : s.idx = 0#8) :
    step (s.fed (b :: bs) rest) = .next ({ s with c0 := some b, idx := 1#8 }.fed bs rest) := by
  rw [step_fed hc, dispatch_readChecksum_byte hs (Token.byte_k _), Token.byte_d]; exact execByteReadChecksum_first hi

theorem step_fed_readChecksum_second {s : State} {b c0 : Byte} {p bs : List Byte} {rest : List HostMove}
    (hc : s.cfg.wf = true) (hs : s.st = St.readChecksum) (hi : s.idx = 1#8) (h0 : s.c0 = some c0)
    (hp : s.payload = some p) :
    step (s.fed (b :: bs) rest) = .next (evaluate c0 b p (s.fed bs rest)) := by
  rw [step_fed hc, dispatch_readChecksum_byte hs (Token.byte_k _), Token.byte_d]
  exact execByteReadChecksum_second hi h0 hp

end Sys2Proof.Machine
end

