-- ==== Sys2Proof/Machine/Assembler.lean ====
section
/-! DEFINITION. The text of the token-stream notation (spec/30_encoding.md R67, R68): from characters to the items of Stream.lean, and
the written encoding of a token. What the notation leaves open of its spelling is log entry 16. -/

namespace Sys2Proof.Machine

/-! ### Characters to lexemes -/

/-- A word, or one of `( ) * = ,`. -/
inductive Lexeme
  | word (cs : List Char)
  | mark (c : Char)
  deriving DecidableEq, Repr

/-- The word read so far, if there is one, before the lexemes that follow. -/
def endWord (w : List Char) (ls : List Lexeme) : List Lexeme :=
  match w with
  | [] => ls
  | _ :: _ => .word w.reverse :: ls

/-- Lexemes of a text. `comment` says that a `;` has started a comment on this line (R67); `w` is the word read so far, reversed. -/
def lex (comment : Bool) (w : List Char) : List Char → List Lexeme
  | [] => endWord w []
  | c :: cs =>
    if comment then lex (c != '\n') [] cs
    else if c = ';' then endWord w (lex true [] cs)
    else if c = ' ' ∨ c = '\n' ∨ c = '\t' ∨ c = '\r' then endWord w (lex false [] cs)
    else if c = '(' ∨ c = ')' ∨ c = '*' ∨ c = '=' ∨ c = ',' then endWord w (.mark c :: lex false [] cs)
    else lex false (c :: w) cs

/-! ### Numbers -/

/-- A hexadecimal digit, in either case. -/
def hexDigit (c : Char) : Option Nat :=
  let n := c.toNat
  if 48 ≤ n ∧ n ≤ 57 then some (n - 48)
  else if 65 ≤ n ∧ n ≤ 70 then some (n - 55)
  else if 97 ≤ n ∧ n ≤ 102 then some (n - 87)
  else none

/-- A hex pair `NN` or `0xNN`. R67 gives the forms `BYTE 0xNN` and a bare `NN`; that either spelling is read in both places, before `*k`
and inside macro arguments is log entry 16. -/
def hexByte (cs : List Char) : Option Byte :=
  match cs with
  | ['0', 'x', a, b] => do return BitVec.ofNat 8 (16 * (← hexDigit a) + (← hexDigit b))
  | [a, b] => do return BitVec.ofNat 8 (16 * (← hexDigit a) + (← hexDigit b))
  | _ => none

/-- The digits of a decimal number, after `acc`. -/
def decDigits (acc : Nat) : List Char → Option Nat
  | [] => some acc
  | c :: cs => if 48 ≤ c.toNat ∧ c.toNat ≤ 57 then decDigits (10 * acc + (c.toNat - 48)) cs else none

/-- A decimal number: the `k` of `NN*k`. -/
def decNat (cs : List Char) : Option Nat :=
  match cs with
  | [] => none
  | c :: cs => decDigits 0 (c :: cs)

/-- A decimal number with a sign: a field value of `FRAME_REC`. -/
def decInt (cs : List Char) : Option Int :=
  match cs with
  | '-' :: cs => (decNat cs).map fun n => -(n : Int)
  | cs => (decNat cs).map fun n => (n : Int)

/-- The bits of a signed value of `w` bits, when it is in range (R133, R134). -/
def signedField (w : Nat) (v : Int) : Option (BitVec w) :=
  if -(2 ^ (w - 1) : Int) ≤ v ∧ v < 2 ^ (w - 1) then some (BitVec.ofInt w v) else none

/-- The bits of an unsigned byte, when it is in range (R135). -/
def unsignedField (v : Int) : Option Byte :=
  if 0 ≤ v ∧ v < 256 then some (BitVec.ofInt 8 v) else none

/-! ### Macro arguments -/

/-- A byte list up to the closing parenthesis: `NN`, `NN*k` (R67), and what follows it. -/
def byteArgs : Nat → List Lexeme → Option (List Byte × List Lexeme)
  | 0, _ => none
  | _ + 1, .mark ')' :: rest => some ([], rest)
  | n + 1, .word d :: .mark '*' :: .word k :: rest => do
    let (bs, rest) ← byteArgs n rest
    return (List.replicate (← decNat k) (← hexByte d) ++ bs, rest)
  | n + 1, .word d :: rest => do
    let (bs, rest) ← byteArgs n rest
    return ((← hexByte d) :: bs, rest)
  | _ + 1, _ => none

/-- The arguments `name=value`, separated by commas, up to the closing parenthesis. -/
def fieldArgs : List Lexeme → Option (List (List Char × Int) × List Lexeme)
  | .word f :: .mark '=' :: .word v :: .mark ',' :: rest => do
    let (fs, rest) ← fieldArgs rest
    return ((f, ← decInt v) :: fs, rest)
  | .word f :: .mark '=' :: .word v :: .mark ')' :: rest => do return ([(f, ← decInt v)], rest)
  | _ => none

/-- The names of the fields of a record, in the order of R139. -/
def fieldNames : List (List Char) :=
  [['A', 'x'], ['A', 'y'], ['A', 'z'], ['W', 'x'], ['W', 'y'], ['W', 'z'], ['T', 'a', 'x'], ['T', 'a', 'y'], ['T', 'a', 'z'],
   ['T', 'w', 'x'], ['T', 'w', 'y'], ['T', 'w', 'z'], ['S'], ['T', 'i', 'm', 'e', 's', 't', 'a', 'm', 'p'],
   ['S', 't', 'a', 't', 'u', 's'], ['N', 'u', 'm', 'b', 'e', 'r']]

/-- The record of sixteen named values in the order of R139. -/
def recordArg (fs : List (List Char × Int)) : Option Record :=
  if fs.map Prod.fst = fieldNames then
    match fs.map Prod.snd with
    | [ax, ay, az, wx, wy, wz, tax, tay, taz, twx, twy, twz, s, timestamp, status, number] => do
      return {
        ax := ← signedField 32 ax
        ay := ← signedField 32 ay
        az := ← signedField 32 az
        wx := ← signedField 32 wx
        wy := ← signedField 32 wy
        wz := ← signedField 32 wz
        tax := ← signedField 16 tax
        tay := ← signedField 16 tay
        taz := ← signedField 16 taz
        twx := ← signedField 16 twx
        twy := ← signedField 16 twy
        twz := ← signedField 16 twz
        s := ← signedField 16 s
        timestamp := ← signedField 16 timestamp
        status := ← unsignedField status
        number := ← unsignedField number }
    | _ => none
  else none

/-! ### Items -/

/-- One item that begins with the word `w`, and what follows it (R67, R68). -/
def item (w : List Char) (rest : List Lexeme) : Option (StreamItem × List Lexeme) :=
  match w, rest with
  | ['B', 'Y', 'T', 'E'], .word d :: rest => do return (.byte (← hexByte d), rest)
  | ['E', 'O', 'I'], rest => some (.eoi, rest)
  | ['R', 'E', 'S', 'E', 'T'], rest => some (.reset, rest)
  | ['F', 'R', 'A', 'M', 'E'], .mark '(' :: rest => do
    let (bs, rest) ← byteArgs (rest.length + 1) rest
    return (.frame bs, rest)
  | ['F', 'R', 'A', 'M', 'E', '_', 'R', 'E', 'C'], .mark '(' :: rest => do
    let (fs, rest) ← fieldArgs rest
    return (.frameRec (← recordArg fs), rest)
  | ['B', 'A', 'D', 'C', 'R', 'C', '_', 'F', 'R', 'A', 'M', 'E'], .mark '(' :: rest => do
    let (bs, rest) ← byteArgs (rest.length + 1) rest
    return (.badCrcFrame bs, rest)
  | ['N', 'O', 'I', 'S', 'E'], .mark '(' :: rest => do
    let (bs, rest) ← byteArgs (rest.length + 1) rest
    return (.noise bs, rest)
  | d, .mark '*' :: .word k :: rest => do return (.copies (← hexByte d) (← decNat k), rest)
  | d, rest => do return (.byte (← hexByte d), rest)

/-- The items of a text's lexemes; `none` where it is not in the notation. -/
def items : Nat → List Lexeme → Option (List StreamItem)
  | _, [] => some []
  | 0, _ :: _ => none
  | n + 1, .word w :: rest => do
    let (i, rest) ← item w rest
    return i :: (← items n rest)
  | _ + 1, .mark _ :: _ => none

/-- `FRAME(rb)` and `BADCRC_FRAME(rb)` take exactly `PLEN - 1` record bytes (R68). -/
def StreamItem.wf (c : Config) : StreamItem → Bool
  | .byte _ => true
  | .copies _ _ => true
  | .noise _ => true
  | .frame rb => rb.length == c.plen - 1
  | .frameRec _ => recBytes == c.plen - 1
  | .badCrcFrame rb => rb.length == c.plen - 1
  | .eoi => true
  | .reset => true

/-- The host moves that a text stands for under the configuration `c`. -/
def assembleText (c : Config) (text : List Char) : Option (List HostMove) := do
  let ls := lex false [] text
  let is ← items ls.length ls
  if is.all (StreamItem.wf c) then return assemble c is else none

/-! ### The written encoding of a token -/

/-- A hexadecimal digit. -/
def digitChar (n : BitVec 4) : Char :=
  if n.toNat < 10 then Char.ofNat (48 + n.toNat) else Char.ofNat (55 + n.toNat)

/-- A token as 9-bit hex: `BYTE 0xAA` is `0AA`, `EOI` is `100` (R67). -/
def tokenText (t : Token) : List Char :=
  [digitChar (t.extractLsb' 8 4), digitChar (t.extractLsb' 4 4), digitChar (t.extractLsb' 0 4)]

end Sys2Proof.Machine
end

