-- ==== Sys2Proof/Tests/Slice0.lean ====
section
/-! SUPPORT. The model's own tests. Expected values come from the rules and from spec/95_test_vectors.md (the V-… names); the witness
theorems show states and operands that meet the hypotheses of the statements in Obligations.lean, clause by clause. -/

namespace Sys2Proof.Tests

open Sys2Proof Sys2Proof.Machine

/-! ### Helpers -/

/-- The next state, when there is one. -/
def got (r : Result) : Option State :=
  match r with
  | .next t => some t
  | .fault _ => none
  | .refused _ => none

theorem next_of_got {r : Result} {t : State} (h : got r = some t) : r = .next t := by
  cases r <;> simp_all [got]

/-- The result is the fault. -/
def faults (r : Result) : Bool :=
  match r with
  | .fault .illegalState => true
  | .next _ => false
  | .refused _ => false

/-- The result is the refusal of a configuration. -/
def refusesConfig (r : Result) : Bool :=
  match r with
  | .refused .illegalConfiguration => true
  | _ => false

/-- The default configuration with another length constant. -/
def withLen (n : Byte) : Config := { Config.default with lenConst := n }

/-- A state of the default configuration. -/
def mk (st : BitVec 3) (idx : BitVec 8) : State := { State.reset with st := st, idx := idx }

/-- The cells `0, 1, …` holding these bytes. -/
def cells (bs : List Byte) : Memory := (List.range bs.length).zip bs

/-- The payload of the all-zero record (V-C8). -/
def zeroPayload : List Byte := 0x87#8 :: List.replicate 42 0#8

/-- READ_CHECKSUM before the second checksum byte of the all-zero record (V-F5b). -/
def atSecond : State := { mk St.readChecksum 1#8 with c0 := some 0xE4#8, pbuf := cells zeroPayload }

/-- The same under `LEN_CONST = 3`: the payload is the device id alone, and its checksum is `0x6240` (V-S13). -/
def atSecondShort : State :=
  { mk St.readChecksum 1#8 with cfg := withLen 3#8, c0 := some 0x62#8, pbuf := cells [0x87#8] }

/-- READ_PACKET before the last payload byte, with this device id in cell 0. -/
def atLast (id : Byte) : State := { mk St.readPacket 42#8 with pbuf := cells (id :: List.replicate 41 0#8) }

/-- `s` with this token presented next. -/
def offer (t : Token) (s : State) : State := { s with input := [.present t] }

/-! ### Well-formedness: one ill-formed term for each check -/

theorem test_wf_default : Config.default.wf = true := by decide
theorem test_wf_refuses_short_length : (withLen 2#8).wf = false := by decide
theorem test_wf_refuses_zero_width : ({ Config.default with cntW := 0 } : Config).wf = false := by decide
theorem test_runsIn_refuses_other_state : (Instr.byteSearchSync 0xAA#8).runsIn 1#3 = false := by decide

/-! ### Decoding: words written out from the columns `st`, `K`, `D` of R63 -/

theorem test_decode_byteSearchSync : decodeKey 0b000010101010#12 = .byteSearchSync 0xAA#8 := by decide
theorem test_decode_eoiSearchSync : decodeKey 0b000101011010#12 = .eoiSearchSync 0x5A#8 := by decide
theorem test_decode_byteReadSync : decodeKey 0b001000101101#12 = .byteReadSync 0x2D#8 := by decide
theorem test_decode_eoiReadSync : decodeKey 0b001100000000#12 = .eoiReadSync 0x00#8 := by decide
theorem test_decode_byteReadLength : decodeKey 0b010000101100#12 = .byteReadLength 0x2C#8 := by decide
theorem test_decode_eoiReadLength : decodeKey 0b010111111111#12 = .eoiReadLength 0xFF#8 := by decide
theorem test_decode_byteReadPacket : decodeKey 0b011010000111#12 = .byteReadPacket 0x87#8 := by decide
theorem test_decode_eoiReadPacket : decodeKey 0b011100000001#12 = .eoiReadPacket 0x01#8 := by decide
theorem test_decode_byteReadChecksum : decodeKey 0b100011100100#12 = .byteReadChecksum 0xE4#8 := by decide
theorem test_decode_eoiReadChecksum : decodeKey 0b100110000000#12 = .eoiReadChecksum 0x80#8 := by decide
theorem test_decode_illegalSt5 : decodeKey 0b101100110011#12 = .illegalSt5 1#1 0x33#8 := by decide
theorem test_decode_illegalSt6 : decodeKey 0b110011001100#12 = .illegalSt6 0#1 0xCC#8 := by decide
theorem test_decode_anyExiting : decodeKey 0b111100000000#12 = .anyExiting 1#1 0x00#8 := by decide
theorem test_decode_bytes : decode [0x87#8, 0x06#8] = .ok (.byteReadPacket 0x87#8) := by decide
theorem test_decode_bytes_refused : decode [0x87#8, 0x16#8] = .error .widerThanKey ∧ decode [0x87#8] = .error .notTwoBytes := by decide
theorem test_table_word : decodeTableWord 16 0x887 = some (.byteReadChecksum 0x87#8) ∧ decodeTableWord 12 0xE00 = some (.anyExiting 0#1 0#8) ∧
    decodeTableWord 16 0x1000 = none := by decide
theorem test_fetch_word : (got (step (State.reset.withFetchWord 16 0x887))).map State.c0 = some (some 0x87#8) := by decide

/-! ### The checksum engine and the unpacker -/

/-- V-C1. -/
theorem test_checksum_check_value :
    checksum16 CrcAlg.arc [0x31#8, 0x32#8, 0x33#8, 0x34#8, 0x35#8, 0x36#8, 0x37#8, 0x38#8, 0x39#8] = 0xBB3D#16 := by decide +kernel
/-- V-C8. -/
theorem test_checksum_zero_record : checksum16 CrcAlg.arc zeroPayload = 0xE433#16 := by decide +kernel
/-- CRC-16/XMODEM of the same nine bytes is `0x31C3` (general knowledge): the form without reflection. -/
theorem test_checksum_not_reflected :
    checksum16 { poly := 0x1021#16, init := 0#16, refin := false, refout := false, xorout := 0#16 }
      [0x31#8, 0x32#8, 0x33#8, 0x34#8, 0x35#8, 0x36#8, 0x37#8, 0x38#8, 0x39#8] = 0x31C3#16 := by decide +kernel
/-- The table of R84 is the one its formula gives. -/
theorem test_table : arcTable = (List.range 256).map fun i => tableEntry 0x8005#16 (BitVec.ofNat 8 i) := by decide +kernel
/-- The two values under V-C. -/
theorem test_compose : compose .highFirst 0xE4#8 0x33#8 = 0xE433#16 ∧ compose .lowFirst 0xE4#8 0x33#8 = 0x33E4#16 := by decide

/-- The record bytes of V-U5. -/
def mixedBytes : List Byte :=
  [0x01#8, 0x00#8, 0x00#8, 0x00#8, 0xFE#8, 0xFF#8, 0xFF#8, 0xFF#8, 0x01#8, 0x02#8, 0x03#8, 0x04#8, 0xAA#8, 0xAA#8, 0xAA#8, 0xAA#8,
   0x00#8, 0x01#8, 0x00#8, 0x00#8, 0x00#8, 0xFF#8, 0xFF#8, 0xFF#8] ++
  [0x01#8, 0x00#8, 0xFF#8, 0xFF#8, 0x34#8, 0x12#8, 0xCC#8, 0xED#8, 0xAA#8, 0x00#8, 0x56#8, 0xFF#8, 0x07#8, 0x00#8, 0xD0#8, 0x8A#8,
   0xAA#8, 0x2D#8]

/-- The values of what `unpack` answers. -/
def unpackedValues (u : Unpacked) : Option (List Int) :=
  match u with
  | .record r => some r.values
  | .structuralDecodeError => none

/-- V-U5. -/
theorem test_unpack_mixed :
    unpackedValues (unpack (0x87#8 :: mixedBytes)) =
      some [1, -2, 67305985, -1431655766, 256, -256, 1, -1, 4660, -4660, 170, -170, 7, -30000, 170, 45] := by decide +kernel
/-- V-U7. -/
theorem test_unpack_structural : unpack (0x87#8 :: List.replicate 41 0#8) = .structuralDecodeError := by decide +kernel

/-! ### Single steps (V-F1 to V-F8) -/

theorem test_F1a : (got (step (offer 0x0AA#9 (mk 0#3 0#8)))).map State.st = some 1#3 := by decide
theorem test_F1c : (got (step (offer 0x02D#9 (mk 0#3 0#8)))).map State.st = some 0#3 := by decide
theorem test_F2a : (got (step (offer 0x0AA#9 (mk 1#3 0#8)))).map State.st = some 2#3 := by decide
theorem test_F2b : (got (step (offer 0x02D#9 (mk 1#3 0#8)))).map State.st = some 0#3 := by decide
theorem test_F3a : (got (step (offer 0x02D#9 (mk 2#3 0#8)))).map State.st = some 3#3 := by decide
theorem test_F3c : (got (step (offer 0x0AA#9 (mk 2#3 0#8)))).map State.st = some 0#3 := by decide
theorem test_F4c : (got (step (offer 0x0AA#9 (mk 3#3 41#8)))).map (fun t => (t.st, t.idx, t.pbuf)) = some (3#3, 42#8, [(41, 0xAA#8)]) := by decide
theorem test_F4de : (got (step (offer 0#9 (atLast 0x87#8)))).map (fun t => (t.st, t.idx, t.pbuf.read 42)) = some (4#3, 0#8, some 0#8) ∧
    (got (step (offer 0#9 (atLast 0x00#8)))).map (fun t => (t.st, t.idx)) = some (0#3, 0#8) := by decide +kernel
theorem test_F5bc : (got (step (offer 0x033#9 atSecond))).map (fun t => (t.st, t.hdrDone, t.total, t.valid)) = some (0#3, true, 1, 1) ∧
    (got (step (offer 0x033#9 { atSecond with hdrDone := true, total := 5, valid := 4 }))).map
      (fun t => (t.total, t.valid, t.events.length)) = some (6, 5, 1) := by decide +kernel
theorem test_F5d : (got (step (offer 0x0E4#9 { atSecond with c0 := some 0x33#8 }))).map
      (fun t => (t.st, t.idx, t.total, t.valid, t.events)) = some (0#3, 0#8, 1, 0, []) := by decide +kernel
theorem test_F6a : (got (step (offer 0x100#9 (mk 0#3 0#8)))).map (fun t => (t.st, t.events)) = some (7#3, [.stats 0 0 0]) := by decide
theorem test_F6b : (got (step (offer 0x100#9 { mk 1#3 0#8 with total := 2, valid := 2 }))).map State.events = some [.stats 2 2 0] := by
  decide +kernel
theorem test_F6c : (got (step (offer 0x100#9 { mk 2#3 0#8 with total := 3, valid := 1 }))).map State.events = some [.stats 3 1 2] := by
  decide +kernel
theorem test_F6d : (got (step (offer 0x100#9 { mk 3#3 17#8 with total := 3, valid := 2 }))).map (fun t => (t.st, t.idx, t.events)) =
    some (7#3, 0#8, [.stats 3 2 1]) := by decide +kernel
theorem test_F6e : (got (step (offer 0x100#9 atSecond))).map (fun t => (t.st, t.idx, t.events)) = some (7#3, 0#8, [.stats 0 0 0]) := by
  decide +kernel
theorem test_F6f : (got (step (offer 0x15A#9 (mk 0#3 0#8)))).map (fun t => (t.st, t.events)) = some (7#3, [.stats 0 0 0]) := by decide
theorem test_F7b : (got (step (offer 0x100#9 { mk 7#3 0#8 with total := 1, valid := 1 }))).map (fun t => (t.st, t.events)) =
    some (7#3, []) := by decide
theorem test_F8ab : faults (step (offer 0x012#9 (mk 5#3 0#8))) = true ∧ faults (step (offer 0x112#9 (mk 6#3 0#8))) = true := by decide
theorem test_F8cd : faults (step (offer 0x000#9 (mk 3#3 43#8))) = true ∧ faults (step (offer 0x000#9 (mk 4#3 2#8))) = true := by decide

/-- R23, R165: the range check comes first for an EOI too (log entry 17). -/
theorem test_eoi_out_of_range :
    faults (step (offer 0x100#9 (mk 3#3 43#8))) = true ∧ faults (step (offer 0x100#9 (mk 4#3 2#8))) = true := by decide

/-- R107, R108 at `CNT_W = 2`: the counters saturate at 3, and the third value of `STATS` has two bits. -/
theorem test_saturation : satInc { Config.default with cntW := 2 } 3 = 3 ∧ satInc { Config.default with cntW := 2 } 2 = 3 ∧ countDiff 2 1 2 = 3 := by
  decide

/-! ### What the host sees -/

/-- R32: each signal of the status port is the field of its name. -/
theorem test_status_port : (mk 3#3 17#8).statusPort = { st := 3#3, idx := 17#8, hdrDone := false, total := 0, valid := 0 } := by decide
/-- R65: the kind codes. -/
theorem test_kind_codes : [none, some Event.hdr, some (.stats 0 0 0)].map kindCode = [0#2, 1#2, 3#2] := by decide
/-- R160: the condition codes. -/
theorem test_condition_codes :
    [Condition.none, .endOfInput, .mismatchSync2, .mismatchLength, .mismatchDeviceId, .mismatchChecksum, .structuralDecodeError, .illegalState].map
      Condition.code = [0#3, 1#3, 2#3, 3#3, 4#3, 5#3, 6#3, 7#3] := by decide
/-- R67: the tokens of a short stream. -/
theorem test_assemble : assemble Config.default [.reset, .byte 0x13#8, .copies 0#8 2, .eoi] =
    [.reset Config.default none, .present 0x013#9, .present 0x000#9, .present 0x000#9, .present 0x100#9] := by decide
/-- R67: bare pairs, copies, a comment, `BYTE 0xNN`, `EOI` and `RESET` in a text. -/
theorem test_assembleText : assembleText Config.default "RESET 13 00*2 ; AA\nBYTE 0xAA EOI".toList =
    some [.reset Config.default none, .present 0x013#9, .present 0x000#9, .present 0x000#9, .present 0x0AA#9, .present 0x100#9] := by
  decide +kernel
/-- R68: `FRAME` takes exactly `PLEN - 1` record bytes. -/
theorem test_assembleText_frame : assembleText Config.default "FRAME(00*41)".toList = none ∧
    assembleText Config.default "FRAME(00*42)".toList = some (presentBytes ([0xAA#8, 0xAA#8, 0x2D#8] ++ zeroPayload ++ [0xE4#8, 0x33#8])) := by
  decide +kernel
/-- The record of program P1 (95_test_vectors.md) as a macro, and its bytes. -/
theorem test_assembleText_record :
    (assembleText Config.default ("FRAME_REC(Ax=1, Ay=-2, Az=67305985, Wx=-1431655766, Wy=256, Wz=-256, Tax=1, Tay=-1, Taz=4660, Twx=-4660, " ++
      "Twy=170, Twz=-170, S=7, Timestamp=-30000, Status=170, Number=45)").toList) =
      some (presentBytes ([0xAA#8, 0xAA#8, 0x2D#8, 0x87#8] ++ mixedBytes ++ [0xC3#8, 0x2F#8])) := by decide +kernel
/-- R67: the written encodings. -/
theorem test_tokenText : tokenText (Token.byte 0xAA#8) = "0AA".toList ∧ tokenText Token.eoi = "100".toList := by decide +kernel
/-- V-S1: the frame of the all-zero record ends in `E4 33`. -/
theorem test_frame : frame Config.default (List.replicate 42 0#8) = [0xAA#8, 0xAA#8, 0x2D#8] ++ zeroPayload ++ [0xE4#8, 0x33#8] := by
  decide +kernel

/-! ### Witnesses: states and operands that meet the hypotheses of the statements -/

theorem no_reset_of_nil (cfg : Config) (held : Option Token) (rest : List HostMove) : ([] : List HostMove) ≠ .reset cfg held :: rest := by simp

theorem no_reset_of_token (t : Token) (r : List HostMove) (cfg : Config) (held : Option Token) (rest : List HostMove) :
    (.present t :: r : List HostMove) ≠ .reset cfg held :: rest := by simp

theorem witness_ResetStateAndUnwrittenReads :
    (∃ s : State, s.idx = 1#8 ∧ s.c0 = none) ∧
    (∃ (s : State) (a : Nat), s.idx = 1#8 ∧ a < s.cfg.plen ∧ s.pbuf.read a = none) ∧
    (∃ s : State, 0 < s.idx.toNat ∧ s.idx.toNat + 1 = s.cfg.plen ∧ s.pbuf.read 0 = none) :=
  ⟨⟨mk 4#3 1#8, by decide⟩, ⟨mk 4#3 1#8, 42, by decide⟩, ⟨mk 3#3 42#8, by decide⟩⟩

theorem witness_ResetTakesPriorityOverAnyToken :
    ∃ (s : State) (cfg : Config) (held : Option Token) (rest : List HostMove), cfg.wf = true ∧ s.input = .reset cfg held :: rest :=
  ⟨{ mk 7#3 0#8 with input := [.reset (withLen 3#8) (some 0x0AA#9), .present 0x100#9] }, _, _, _, by decide, rfl⟩

theorem witness_ShortLengthConstants :
    (∃ s : State, s.cfg.lenConst.toNat < 3 ∧ ∀ cfg held rest, s.input ≠ .reset cfg held :: rest) ∧
    (∃ (s : State) (cfg : Config) (held : Option Token) (rest : List HostMove), cfg.lenConst.toNat < 3 ∧ s.input = .reset cfg held :: rest) ∧
    (∀ n ∈ [3#8, 44#8], 3 ≤ (withLen n).lenConst.toNat ∧ (withLen n).lenConst.toNat ≤ 44 ∧ 1 ≤ (withLen n).cntW) ∧
    (∃ (d c0 : Byte) (p : List Byte) (s : State), s.cfg.lenConst.toNat ≤ 44 ∧ s.idx = 1#8 ∧ s.c0 = some c0 ∧ s.payload = some p ∧
      compose s.cfg.csumOrder c0 d = checksum16 s.cfg.crcAlg p) :=
  ⟨⟨{ State.reset with cfg := withLen 2#8 }, by decide, no_reset_of_nil⟩,
   ⟨{ State.reset with input := [.reset (withLen 2#8) none] }, _, _, _, by decide, rfl⟩, by decide,
   ⟨0x40#8, 0x62#8, [0x87#8], atSecondShort, by decide +kernel⟩⟩

theorem witness_DerivedConstants :
    (withLen 3#8).wf = true ∧ (withLen 255#8).wf = true ∧ (List.replicate 42 0#8).length = Config.default.plen - 1 := by decide

/-- One step that answers a next state: without a reset, and with one. -/
theorem witness_step :
    (∃ s t : State, step s = .next t ∧ ∀ cfg held rest, s.input ≠ .reset cfg held :: rest) ∧
    (∃ (s t : State) (cfg : Config) (held : Option Token) (rest : List HostMove), step s = .next t ∧ s.input = .reset cfg held :: rest) :=
  ⟨⟨State.reset, State.reset, next_of_got (by decide), no_reset_of_nil⟩,
   ⟨{ mk 7#3 0#8 with input := [.reset (withLen 3#8) none] }, { State.reset with cfg := withLen 3#8 }, withLen 3#8, none, [],
    next_of_got (by decide), rfl⟩⟩

theorem witness_ConfigurationFixedForARun :
    (∃ s t : State, step s = .next t ∧ ∀ cfg held rest, s.input ≠ .reset cfg held :: rest) ∧
    (∃ (s t : State) (cfg : Config) (held : Option Token) (rest : List HostMove), step s = .next t ∧ s.input = .reset cfg held :: rest) :=
  witness_step

theorem witness_EachStepTakesOneMove : ∃ s t : State, step s = .next t ∧ s.input = [.pause, .present 0x0AA#9] :=
  ⟨{ State.reset with input := [.pause, .present 0x0AA#9] }, { State.reset with input := [.present 0x0AA#9] },
   next_of_got (by decide), rfl⟩

theorem witness_WaitingLeavesTheStateUnchanged :
    (State.reset.cfg.wf = true ∧ State.reset.input = []) ∧
    (∃ (n : Nat) (s : State) (rest : List HostMove), s.cfg.wf = true ∧ s.input = List.replicate n .pause ++ rest ∧ 0 < n) :=
  ⟨by decide, 2, { State.reset with input := [.pause, .pause, .present 0x0AA#9] }, [.present 0x0AA#9], by decide⟩

theorem witness_DecodeAndEncodeAgree :
    (12 ≤ 16 ∧ 16 ≤ 16) ∧ ([] : List Byte).length ≠ 2 ∧ [0#8, 0#8, 0#8].length ≠ 2 ∧ 16 ≤ (0x10#8).toNat := by decide

theorem witness_StepRunsTheDecodedInstruction :
    ∃ (s : State) (tok : Token) (rest : List HostMove), s.cfg.wf = true ∧ s.input = .present tok :: rest :=
  ⟨offer 0x0AA#9 State.reset, 0x0AA#9, [], by decide, rfl⟩

theorem witness_SearchSyncScansForSync : (mk 0#3 0#8).st = St.searchSync ∧ 0x55#8 ≠ (mk 0#3 0#8).cfg.sync := by decide

theorem witness_ReadSyncRequiresASecondSync :
    (mk 0#3 0#8).cfg.wf = true ∧ (mk 0#3 0#8).st = St.searchSync ∧ 0x2D#8 ≠ (mk 0#3 0#8).cfg.sync := by decide

theorem witness_ReadLengthOpensAPayload :
    0x2D#8 = (mk 2#3 0#8).cfg.lenConst ∧ 0x2C#8 ≠ (mk 2#3 0#8).cfg.lenConst ∧
    (0xAA#8 = (mk 2#3 0#8).cfg.sync ∧ (mk 2#3 0#8).cfg.sync ≠ (mk 2#3 0#8).cfg.lenConst) := by decide

/-- The boundary values of `idx`: 43 and 255 out of range, 0 and 41 before the last byte, 42 the last one; and `PLEN = 1`, where the
first byte is the last and is the id. -/
theorem witness_ReadPacketStoresAndChecksTheId :
    (∀ i ∈ [43#8, 255#8], (mk 3#3 i).cfg.plen ≤ (mk 3#3 i).idx.toNat) ∧
    (∀ i ∈ [0#8, 41#8], (mk 3#3 i).idx.toNat + 1 < (mk 3#3 i).cfg.plen) ∧
    (∀ id ∈ [0x87#8, 0x00#8], (atLast id).idx.toNat + 1 = (atLast id).cfg.plen ∧
      (if (atLast id).idx.toNat = 0 then id = 0#8 else (atLast id).pbuf.read 0 = some id)) ∧
    (∃ (d id : Byte) (s : State), s.idx.toNat = 0 ∧ s.idx.toNat + 1 = s.cfg.plen ∧
      (if s.idx.toNat = 0 then id = d else s.pbuf.read 0 = some id)) :=
  ⟨by decide, by decide, by decide +kernel, 0x87#8, 0x87#8, { mk 3#3 0#8 with cfg := withLen 3#8 }, by decide⟩

/-- The hypotheses on a payload that is the cells of the buffer. -/
theorem payload_cells (s : State) (p : List Byte) (h : p.length = s.cfg.plen)
    (h' : ∀ a ∈ List.range s.cfg.plen, s.pbuf.read a = p[a]?) : p.length = s.cfg.plen ∧ ∀ a, a < s.cfg.plen → s.pbuf.read a = p[a]? :=
  ⟨h, fun a ha => h' a (List.mem_range.2 ha)⟩

/-- A second checksum byte with and without a match, for a payload long enough for a record and for one that is not; `idx` 0 and 2. -/
theorem witness_ReadChecksumEvaluatesTheCandidate :
    (∃ s : State, 1 < s.idx.toNat) ∧ (∃ s : State, s.idx = 0#8) ∧
    (∀ a, a < atSecond.cfg.plen → atSecond.pbuf.read a = zeroPayload[a]?) ∧
    (atSecond.idx = 1#8 ∧ atSecond.c0 = some 0xE4#8 ∧ zeroPayload.length = atSecond.cfg.plen ∧ 42 ≤ atSecond.cfg.plen - 1 ∧
      compose atSecond.cfg.csumOrder 0xE4#8 0x33#8 = checksum16 atSecond.cfg.crcAlg zeroPayload ∧
      compose atSecond.cfg.csumOrder 0xE4#8 0x32#8 ≠ checksum16 atSecond.cfg.crcAlg zeroPayload) ∧
    (∀ a, a < atSecondShort.cfg.plen → atSecondShort.pbuf.read a = [0x87#8][a]?) ∧
    (atSecondShort.idx = 1#8 ∧ atSecondShort.c0 = some 0x62#8 ∧ [0x87#8].length = atSecondShort.cfg.plen ∧ atSecondShort.cfg.plen - 1 < 42 ∧
      compose atSecondShort.cfg.csumOrder 0x62#8 0x40#8 = checksum16 atSecondShort.cfg.crcAlg [0x87#8]) :=
  ⟨⟨mk 4#3 2#8, by decide⟩, ⟨mk 4#3 0#8, by decide⟩, (payload_cells atSecond zeroPayload (by decide) (by decide +kernel)).2, by decide +kernel,
   (payload_cells atSecondShort [0x87#8] (by decide) (by decide)).2, by decide +kernel⟩

theorem witness_CountersSaturate : (0 < 2 ^ Config.default.cntW - 1) ∧ 2 ^ Config.default.cntW - 2 < 2 ^ Config.default.cntW - 1 := by decide

/-- The last `idx` in range and the first out of it, in READ_PACKET (42, 43) and READ_CHECKSUM (1, 2); a row with no range. -/
theorem witness_EndOfInputPrintsStats :
    (∀ i ∈ [Instr.eoiSearchSync 0xFF#8, .eoiReadPacket 0xFF#8, .eoiReadChecksum 0xFF#8],
      i ∈ [Instr.eoiSearchSync 0xFF#8, .eoiReadSync 0xFF#8, .eoiReadLength 0xFF#8, .eoiReadPacket 0xFF#8, .eoiReadChecksum 0xFF#8]) ∧
    (mk 3#3 42#8).idx.toNat < (mk 3#3 42#8).cfg.plen ∧ (mk 4#3 1#8).idx.toNat ≤ 1 ∧
    atSecond.valid ≤ atSecond.total ∧ atSecond.total < 2 ^ atSecond.cfg.cntW ∧
    (mk 3#3 43#8).cfg.plen ≤ (mk 3#3 43#8).idx.toNat ∧ 1 < (mk 4#3 2#8).idx.toNat := by decide

theorem witness_ExitingAbsorbsEveryToken :
    ∃ s : State, s.cfg.wf = true ∧ s.st = St.exiting ∧ (∀ m ∈ s.input, m.isReset = false) ∧ s.input ≠ [] :=
  ⟨offer 0x100#9 (mk 7#3 0#8), by decide⟩

theorem witness_IllegalStatesFault :
    (∀ st ∈ [5#3, 6#3], (offer 0x000#9 (mk st 0#8)).cfg.wf = true ∧ ((mk st 0#8).st = St.writePacket ∨ (mk st 0#8).st = St.printStats)) ∧
    ((mk 3#3 43#8).st = St.readPacket ∧ Token.k 0x000#9 = 0#1 ∧ (mk 3#3 43#8).cfg.plen ≤ (mk 3#3 43#8).idx.toNat) ∧
    ((mk 4#3 2#8).st = St.readChecksum ∧ Token.k 0x000#9 = 0#1 ∧ 1 < (mk 4#3 2#8).idx.toNat) := by decide

theorem witness_OnlyIllegalStateFaults :
    condition (.illegalSt5 0#1 0#8) (mk 5#3 0#8) = .illegalState ∧ condition (.byteReadPacket 0#8) (mk 3#3 43#8) = .illegalState ∧
    condition (.byteReadPacket 0#8) (mk 3#3 42#8) = .illegalState ∧ condition (.byteReadPacket 0#8) (mk 3#3 41#8) ≠ .illegalState := by decide

/-- One instruction and state for each of the codes 2 to 5. -/
theorem witness_MismatchResynchronises :
    condition (.byteReadSync 0x2D#8) (mk 1#3 0#8) = .mismatchSync2 ∧ condition (.byteReadLength 0x2C#8) (mk 2#3 0#8) = .mismatchLength ∧
    condition (.byteReadPacket 0#8) (atLast 0#8) = .mismatchDeviceId ∧ condition (.byteReadChecksum 0x32#8) atSecond = .mismatchChecksum ∧
    Condition.mismatchSync2.isMismatch = true ∧ Condition.mismatchLength.isMismatch = true ∧ Condition.mismatchDeviceId.isMismatch = true ∧
    Condition.mismatchChecksum.isMismatch = true := by decide +kernel

theorem witness_StructuralErrorSkipsTheRecord : condition (.byteReadChecksum 0x40#8) atSecondShort = .structuralDecodeError := by
  decide +kernel

/-- The four statements about every step: a step that evaluates and matches, one that waits and one that resets. -/
theorem witness_CountersChangeOnlyAtAnEvaluation :
    (∃ s t : State, step s = .next t ∧ (∀ cfg held rest, s.input ≠ .reset cfg held :: rest) ∧ s.evaluatesNext = true ∧ s.matchesNext = true) ∧
    (∃ s t : State, step s = .next t ∧ (∀ cfg held rest, s.input ≠ .reset cfg held :: rest) ∧ s.evaluatesNext = true ∧ s.matchesNext = false) ∧
    (∃ (s t : State) (cfg : Config) (held : Option Token) (rest : List HostMove), step s = .next t ∧ s.input = .reset cfg held :: rest) :=
  ⟨⟨offer 0x033#9 atSecond, evaluate 0xE4#8 0x33#8 zeroPayload { atSecond with input := [] }, next_of_got (by decide +kernel),
     no_reset_of_token _ _, by decide +kernel⟩,
   ⟨offer 0x032#9 atSecond, evaluate 0xE4#8 0x32#8 zeroPayload { atSecond with input := [] }, next_of_got (by decide +kernel),
     no_reset_of_token _ _, by decide +kernel⟩, witness_step.2⟩

theorem witness_HeaderFlagSetByTheFirstRecord :
    (∃ s t : State, step s = .next t ∧ (∀ cfg held rest, s.input ≠ .reset cfg held :: rest) ∧ s.hdrDone = false ∧ t.hdrDone = true) ∧
    (∃ (s t : State) (cfg : Config) (held : Option Token) (rest : List HostMove), step s = .next t ∧ s.input = .reset cfg held :: rest) ∧
    (∃ (i : Instr) (s t : State), (∀ d, i ≠ .byteReadChecksum d) ∧ exec i s = .next t) :=
  ⟨⟨offer 0x033#9 atSecond, evaluate 0xE4#8 0x33#8 zeroPayload { atSecond with input := [] }, next_of_got (by decide +kernel),
     no_reset_of_token _ _, by decide +kernel⟩, witness_step.2,
   ⟨.anyExiting 0#1 0#8, mk 7#3 0#8, mk 7#3 0#8, by simp, rfl⟩⟩

theorem witness_OnlyReadPacketWritesTheBuffer :
    (∃ (s t : State) (tok : Token) (rest : List HostMove), step s = .next t ∧ s.input = .present tok :: rest ∧ s.st = St.readPacket ∧ Token.k tok = 0#1) ∧
    (∃ s t : State, step s = .next t ∧ (∀ cfg held rest, s.input ≠ .reset cfg held :: rest) ∧
      ∀ tok rest, s.input = .present tok :: rest → s.st = St.readPacket → Token.k tok ≠ 0#1) ∧
    (∃ (s t : State) (cfg : Config) (held : Option Token) (rest : List HostMove), step s = .next t ∧ s.input = .reset cfg held :: rest) :=
  ⟨⟨offer 0x087#9 (mk 3#3 0#8), { mk 3#3 1#8 with pbuf := [(0, 0x87#8)] }, 0x087#9, [], next_of_got (by decide), rfl, by decide, by decide⟩,
   ⟨State.reset, State.reset, next_of_got (by decide), no_reset_of_nil, by simp [State.reset]⟩, witness_step.2⟩

theorem witness_FirstChecksumByteIsHeld :
    (∃ (s t : State) (tok : Token) (rest : List HostMove), step s = .next t ∧ s.input = .present tok :: rest ∧ s.st = St.readChecksum ∧
      s.idx = 0#8 ∧ Token.k tok = 0#1) ∧
    (∃ s t : State, step s = .next t ∧ (∀ cfg held rest, s.input ≠ .reset cfg held :: rest) ∧
      ∀ tok rest, s.input = .present tok :: rest → s.st = St.readChecksum → s.idx = 0#8 → Token.k tok ≠ 0#1) ∧
    (∃ (i : Instr) (s t : State), (∀ d, i ≠ .byteReadChecksum d) ∧ exec i s = .next t) ∧
    (∃ (s t : State) (cfg : Config) (held : Option Token) (rest : List HostMove), step s = .next t ∧ s.input = .reset cfg held :: rest) :=
  ⟨⟨offer 0x0E4#9 (mk 4#3 0#8), { mk 4#3 1#8 with c0 := some 0xE4#8 }, 0x0E4#9, [], next_of_got (by decide), rfl, by decide, by decide, by decide⟩,
   ⟨State.reset, State.reset, next_of_got (by decide), no_reset_of_nil, by simp [State.reset]⟩,
   ⟨.anyExiting 0#1 0#8, mk 7#3 0#8, mk 7#3 0#8, by simp, rfl⟩, witness_step.2⟩

/-- The three cases: nothing, one event, and `HDR` with the first record. -/
theorem witness_EventsAreAppendedInOrder :
    (∃ s t : State, step s = .next t ∧ (∀ cfg held rest, s.input ≠ .reset cfg held :: rest) ∧ t.events.length = 0) ∧
    (∃ s t : State, step s = .next t ∧ (∀ cfg held rest, s.input ≠ .reset cfg held :: rest) ∧ t.events.length = 1) ∧
    (∃ s t : State, step s = .next t ∧ (∀ cfg held rest, s.input ≠ .reset cfg held :: rest) ∧ t.events.length = 2) :=
  ⟨⟨State.reset, State.reset, next_of_got (by decide), no_reset_of_nil, rfl⟩,
   ⟨offer 0x100#9 (mk 0#3 0#8), { mk 7#3 0#8 with events := [.stats 0 0 0] }, next_of_got (by decide), no_reset_of_token _ _, rfl⟩,
   ⟨offer 0x033#9 atSecond, evaluate 0xE4#8 0x33#8 zeroPayload { atSecond with input := [] }, next_of_got (by decide +kernel),
     no_reset_of_token _ _, by decide +kernel⟩⟩

theorem witness_reachable : Reachable State.reset := Reachable.reset Config.default [] (by decide)

theorem witness_ReservedStatesNeverLatched :
    (∃ s t : State, step s = .next t) ∧ Reachable State.reset ∧
    (∀ st ∈ [5#3, 6#3], (offer 0x0AA#9 (mk st 0#8)).cfg.wf = true ∧ ((mk st 0#8).st = 5#3 ∨ (mk st 0#8).st = 6#3)) :=
  ⟨⟨_, _, witness_step.1.choose_spec.choose_spec.1⟩, witness_reachable, by decide⟩

theorem witness_ResetMeetsTheInvariant : Config.default.wf = true ∧ (withLen 3#8).wf = true ∧ (withLen 255#8).wf = true := by decide

theorem witness_inv : Inv State.reset where
  cfgLegal := by decide
  stLatched := by decide
  idxPacket := by decide
  idxChecksum := by decide
  idxElsewhere := by decide
  pbufCanonical := by decide
  pbufCells := by simp [State.reset]
  packetWritten := by simp [State.reset]
  payloadWritten := by simp [State.reset]
  deviceChecked := by simp [State.reset]
  c0Written := by simp [State.reset]
  validLeTotal := by decide
  totalFits := by decide

theorem witness_EveryStepKeepsTheInvariant : ∃ s t : State, Inv s ∧ step s = .next t :=
  ⟨State.reset, State.reset, witness_inv, next_of_got (by decide)⟩

/-- The branch that completes, the branch that is refused, and a reachable state. -/
theorem witness_InvariantStatesNeverFault :
    (∃ s t : State, Inv s ∧ step s = .next t) ∧
    (∃ (s : State) (cfg : Config) (held : Option Token) (rest : List HostMove), Inv s ∧ s.input = .reset cfg held :: rest ∧ cfg.wf = false ∧
      step s = .refused .illegalConfiguration) ∧
    Reachable State.reset :=
  ⟨witness_EveryStepKeepsTheInvariant,
   ⟨{ State.reset with input := [.reset (withLen 2#8) none] }, withLen 2#8, none, [], { witness_inv with }, rfl, by decide, rfl⟩,
   witness_reachable⟩

theorem witness_ReachableCountersInOrder :
    ∃ s : State, Reachable s ∧ Event.stats 0 0 0 ∈ s.events :=
  ⟨{ mk 7#3 0#8 with events := [.stats 0 0 0] },
   .step _ _ (.reset Config.default [.present 0x100#9] (by decide)) (next_of_got (by decide)), by decide⟩

theorem witness_ReachableEventShape : Reachable State.reset := witness_reachable

theorem witness_EmptyInputReportsZeroes :
    ∃ (s : State) (cfg : Config) (rest : List HostMove), cfg.wf = true ∧ s.input = .reset cfg none :: .present Token.eoi :: rest :=
  ⟨{ State.reset with input := [.reset Config.default none, .present Token.eoi] }, _, _, by decide, rfl⟩

/-- `s` with an EOI presented next, and then a reset. -/
def eoiThenReset (s : State) : State := { s with input := [.present (Token.eoiWith 0#8), .reset Config.default none] }

/-- The last `idx` of each multi-byte read. -/
theorem witness_PartialReadsAreDiscarded :
    ∀ s ∈ [eoiThenReset (mk St.readPacket 42#8), eoiThenReset (mk St.readChecksum 1#8)],
      s.cfg.wf = true ∧ Config.default.wf = true ∧
      ((s.st = St.readPacket ∧ s.idx.toNat < s.cfg.plen) ∨ (s.st = St.readChecksum ∧ s.idx.toNat ≤ 1)) ∧
      s.input = [.present (Token.eoiWith 0#8), .reset Config.default none] := by decide

theorem witness_CandidatesAreCountedOnce :
    ∃ (s t : State), steps 1 s = .next t ∧ (∀ m ∈ s.input, m.isReset = false) ∧ s.valid ≤ s.total ∧
      s.total + countSteps State.evaluatesNext 1 s ≤ s.cfg.maxCount ∧ countSteps State.matchesNext 1 s = 1 :=
  ⟨offer 0x033#9 atSecond, evaluate 0xE4#8 0x33#8 zeroPayload { atSecond with input := [] }, next_of_got (by decide +kernel),
   by decide, by decide, by decide +kernel, by decide +kernel⟩

theorem witness_NoPartialFrameStateSurvives :
    ∃ (n : Nat) (s t : State), s.st = St.searchSync ∧ steps n s = .next t ∧ (t.st = St.readPacket ∨ t.st = St.readChecksum) :=
  ⟨3, State.reset.fed [0xAA#8, 0xAA#8, 0x2D#8] [], mk 3#3 0#8, by decide, next_of_got (by decide), by decide⟩

theorem witness_ThirdSyncByteLosesTheFrame :
    State.reset.cfg.wf = true ∧ State.reset.st = St.searchSync ∧ State.reset.cfg.sync ≠ State.reset.cfg.lenConst := by decide

/-- `PLEN = 43`, and `PLEN = 1` with no byte after the id. -/
theorem witness_WrongDeviceIdConsumesThePayload :
    ((mk 3#3 0#8).cfg.wf = true ∧ (mk 3#3 0#8).st = St.readPacket ∧ (mk 3#3 0#8).idx = 0#8 ∧
      (List.replicate 42 0xAA#8).length + 1 = (mk 3#3 0#8).cfg.plen ∧ 0x00#8 ≠ (mk 3#3 0#8).cfg.deviceId ∧ 42 < (mk 3#3 0#8).cfg.plen) ∧
    ([] : List Byte).length + 1 = (withLen 3#8).plen := by decide

theorem witness_BadChecksumConsumesTheFrame :
    (mk 3#3 0#8).cfg.wf = true ∧ (mk 3#3 0#8).st = St.readPacket ∧ (mk 3#3 0#8).idx = 0#8 ∧
      (List.replicate 42 0#8).length + 1 = (mk 3#3 0#8).cfg.plen ∧
      compose (mk 3#3 0#8).cfg.csumOrder 0xE4#8 0x32#8 ≠
        checksum16 (mk 3#3 0#8).cfg.crcAlg ((mk 3#3 0#8).cfg.deviceId :: List.replicate 42 0#8) ∧ 44 < (mk 3#3 0#8).cfg.plen + 2 := by
  decide +kernel

theorem witness_SearchSyncWithinOneFrame :
    Inv State.reset ∧ State.reset.active = true ∧ (List.replicate 47 0xAA#8).length = State.reset.cfg.plen + 4 :=
  ⟨witness_inv, by decide, by decide⟩

/-- The default length, and the shortest, where no record is emitted. -/
theorem witness_FrameFromSearchSyncIsAccepted :
    (State.reset.cfg.wf = true ∧ State.reset.st = St.searchSync ∧ (List.replicate 42 0#8).length = State.reset.cfg.plen - 1 ∧
      42 ≤ State.reset.cfg.plen - 1) ∧
    ((withLen 3#8).wf = true ∧ ([] : List Byte).length = (withLen 3#8).plen - 1 ∧ (withLen 3#8).plen - 1 < 42) := by decide

theorem witness_UnpackChecksTheLength : atSecond.cfg.wf = true ∧ atSecond.payload = some zeroPayload := by decide +kernel

theorem witness_UnpackFollowsTheLayout : ∃ (p : List Byte) (r : Record), unpack p = .record r :=
  ⟨0x87#8 :: List.replicate 42 0#8, recordOf (0x87#8 :: List.replicate 42 0#8) (by decide), by decide +kernel⟩

theorem witness_UnpackIgnoresBytesBeyondTheRecord : 43 ≤ zeroPayload.length := by decide

theorem witness_PackAndUnpackAreInverse : mixedBytes.length = 42 := by decide

theorem witness_TableDrivenFormAgrees : CrcAlg.arc.refin = true ∧ CrcAlg.arc.refout = true := by decide

theorem witness_MacrosExpandToFrames : (List.replicate 42 0#8).length = Config.default.plen - 1 := by decide

theorem witness_StatusPortShowsTheFields : ∃ s t : State, t = { s with pbuf := t.pbuf, c0 := t.c0 } ∧ t.pbuf ≠ s.pbuf ∧ t.c0 ≠ s.c0 :=
  ⟨mk 4#3 1#8, atSecond, by decide⟩

theorem witness_OutOfRangeIdxFaultsEveryToken :
    ∀ tok ∈ [0x000#9, 0x100#9],
      ((offer tok (mk 3#3 43#8)).cfg.wf = true ∧ (offer tok (mk 3#3 43#8)).input = [.present tok] ∧ (mk 3#3 43#8).st = St.readPacket ∧
        (mk 3#3 43#8).cfg.plen ≤ (mk 3#3 43#8).idx.toNat) ∧
      ((offer tok (mk 4#3 2#8)).cfg.wf = true ∧ (offer tok (mk 4#3 2#8)).input = [.present tok] ∧ (mk 4#3 2#8).st = St.readChecksum ∧
        1 < (mk 4#3 2#8).idx.toNat) := by decide

end Sys2Proof.Tests
end

section
/-! The layout of a frame (R68) and the derived constants (R7). -/

namespace Sys2Proof.Machine

/-- A frame is its two sync bytes, its length byte, its payload and the two bytes from which the block reads back the payload's
checksum (R68, R86). -/
theorem frame_layout (c : Config) (rb : List Byte) :
    ∃ k0 k1, frame c rb = [c.sync, c.sync] ++ [c.lenConst] ++ (c.deviceId :: rb) ++ [k0, k1] ∧
      compose c.csumOrder k0 k1 = checksum16 c.crcAlg (c.deviceId :: rb) := by
  obtain ⟨k0, k1, hbytes, hread⟩ := compose_checksumBytes c.csumOrder (checksum16 c.crcAlg (c.deviceId :: rb))
  exact ⟨k0, k1, by simp [frame, frameWith, hbytes], hread⟩

/-- Around the record bytes stand six others: two sync bytes, the length, the device id and two checksum bytes (R68). -/
@[simp] theorem length_frame (c : Config) (rb : List Byte) : (frame c rb).length = rb.length + 6 := by
  obtain ⟨k0, k1, hframe, -⟩ := frame_layout c rb
  simp [hframe]

/-- Settles O4: the range of `PLEN` follows from that of `LEN_CONST`, and the default frame is `frame_layout` at the default
configuration. -/
theorem derivedConstants : Obligations.DerivedConstants := by
  refine ⟨fun cfg hwf => ⟨rfl, cfg.plen_pos hwf, cfg.plen_le⟩, rfl, rfl, rfl, fun rb hrb => ⟨?_, ?_⟩⟩
  · have hrec : rb.length = 42 := hrb
    rw [length_frame, hrec]
  · obtain ⟨k0, k1, hframe, -⟩ := frame_layout Config.default rb
    exact ⟨k0, k1, hframe⟩

end Sys2Proof.Machine
end

section
/-! What each step does to the candidate's registers: the held checksum byte (R25), the header flag (R26) and the two counters
(R27, R28). Only BYTE.READ_CHECKSUM and a reset write them, so one inversion of the step serves the three. -/

namespace Sys2Proof.Machine

/-! ### The instructions that neither write nor read the held byte and the header flag -/

/-- Every instruction but BYTE.READ_CHECKSUM leaves the candidate's registers alone and does the same whatever `hdr_done` and `c0`
hold. -/
theorem exec_next_of_ne_byteReadChecksum {i : Instr} {s t : State} (hi : ∀ d, i ≠ .byteReadChecksum d)
    (h : exec i s = .next t) :
    t = { s with st := t.st, idx := t.idx, pbuf := t.pbuf, events := t.events } ∧
      ∀ b c, exec i { s with hdrDone := b, c0 := c } = .next { t with hdrDone := b, c0 := c } := by
  cases i with
  | byteSearchSync d => cases (execByteSearchSync_eq d s).symm.trans h; exact ⟨rfl, fun _ _ => execByteSearchSync_eq d _⟩
  | byteReadSync d => cases (execByteReadSync_eq d s).symm.trans h; exact ⟨rfl, fun _ _ => execByteReadSync_eq d _⟩
  | byteReadLength d =>
    by_cases hd : d = s.cfg.lenConst
    · cases (execByteReadLength_match hd).symm.trans h; exact ⟨rfl, fun _ _ => execByteReadLength_match hd⟩
    · cases (execByteReadLength_mismatch hd).symm.trans h; exact ⟨rfl, fun _ _ => execByteReadLength_mismatch hd⟩
  | byteReadPacket d =>
    obtain ⟨hmore, rfl⟩ | ⟨hlast, id, hid, rfl⟩ := execByteReadPacket_next h
    · exact ⟨rfl, fun b c => execByteReadPacket_more (s := { s with hdrDone := b, c0 := c }) hmore⟩
    · exact ⟨rfl, fun b c => execByteReadPacket_last (s := { s with hdrDone := b, c0 := c }) hlast hid⟩
  | byteReadChecksum d => exact absurd rfl (hi d)
  | eoiReadPacket d =>
    obtain ⟨hrange, rfl⟩ := execEoiReadPacket_next h
    exact ⟨rfl, fun b c => execEoiReadPacket_inRange (s := { s with hdrDone := b, c0 := c }) hrange⟩
  | eoiReadChecksum d =>
    obtain ⟨hrange, rfl⟩ := execEoiReadChecksum_next h
    exact ⟨rfl, fun b c => execEoiReadChecksum_inRange (s := { s with hdrDone := b, c0 := c }) hrange⟩
  | eoiSearchSync | eoiReadSync | eoiReadLength | anyExiting => cases h; exact ⟨rfl, fun _ _ => rfl⟩
  | illegalSt5 | illegalSt6 => cases h

/-- A token is a BYTE.READ_CHECKSUM only as a BYTE in READ_CHECKSUM (R63). -/
theorem dispatch_ne_byteReadChecksum {s : State} {tok : Token} (h : s.st = St.readChecksum → Token.k tok ≠ 0#1) (d : Byte) :
    s.dispatch tok ≠ .byteReadChecksum d := by
  intro heq
  rw [dispatch_eq] at heq
  unfold Instr.ofFields at heq
  split_ifs at heq with _ _ _ _ _ _ _ _ hst hk
  exact h hst hk

/-! ### The evaluation of a candidate, register by register (R105, R106) -/

theorem evaluate_total (c0 c1 : Byte) (p : List Byte) (s : State) : (evaluate c0 c1 p s).total = satInc s.cfg s.total := by
  obtain ⟨-, h⟩ | ⟨-, -, h⟩ | ⟨-, r, -, h⟩ := evaluate_cases c0 c1 p s <;> rw [h]

theorem evaluate_valid (c0 c1 : Byte) (p : List Byte) (s : State) :
    (evaluate c0 c1 p s).valid = if checksumOk s.cfg c0 c1 p then satInc s.cfg s.valid else s.valid := by
  obtain ⟨hok, h⟩ | ⟨hok, -, h⟩ | ⟨hok, r, -, h⟩ := evaluate_cases c0 c1 p s <;> simp [h, hok]

/-- A payload is refused exactly when fewer than 42 bytes follow its device id (R131). -/
theorem unpack_eq_structural_iff (p : List Byte) : unpack p = .structuralDecodeError ↔ ¬ 42 ≤ p.length - 1 := by
  unfold unpack
  split
  · rename_i hshort
    exact iff_of_true rfl (Nat.not_le.2 hshort)
  · rename_i hlong
    exact iff_of_false (by simp) (not_not.2 (Nat.not_lt.1 hlong))

/-- An evaluation sets the flag when it accepts a record. -/
theorem evaluate_hdrDone (c0 c1 : Byte) (p : List Byte) (s : State) :
    (evaluate c0 c1 p s).hdrDone = (s.hdrDone || (checksumOk s.cfg c0 c1 p && decide (42 ≤ p.length - 1))) := by
  obtain ⟨hok, h⟩ | ⟨hok, hu, h⟩ | ⟨hok, r, hu, h⟩ := evaluate_cases c0 c1 p s
  · simp [h, hok]
  · simp [h, hok, (unpack_eq_structural_iff p).1 hu]
  · have hlen : 42 ≤ p.length - 1 := by
      by_contra hshort
      rw [(unpack_eq_structural_iff p).2 hshort] at hu
      cases hu
    simp [h, hok, hlen]

/-- An evaluation that raises the flag emits `HDR` and its record. -/
theorem evaluate_events_of_header {c0 c1 : Byte} {p : List Byte} {s : State} (hs : s.hdrDone = false)
    (ht : (evaluate c0 c1 p s).hdrDone = true) :
    ∃ r, (evaluate c0 c1 p s).events = s.events ++ [.hdr, .record r] := by
  obtain ⟨-, h⟩ | ⟨-, -, h⟩ | ⟨-, r, -, h⟩ := evaluate_cases c0 c1 p s
  · simp [h, hs] at ht
  · simp [h, hs] at ht
  · exact ⟨r, by simp [h, hs]⟩

/-! ### The step, by what it does to the candidate's registers -/

/-- The next step takes the token `tok` as a byte of a checksum (R105). -/
def State.presentsChecksumByte (s : State) (tok : Token) : Prop :=
  (∃ rest, s.input = .present tok :: rest) ∧ s.st = St.readChecksum ∧ Token.k tok = 0#1

/-- A step with RESET asserted, inverted. -/
theorem step_next_of_reset {s t : State} {cfg : Config} {held : Option Token} {rest : List HostMove} (h : step s = .next t)
    (hin : s.input = .reset cfg held :: rest) : t = { State.reset with cfg := cfg, input := rest } := by
  obtain ⟨-, he, -⟩ | ⟨_, -, he, -⟩ | ⟨c, x, moves, -, he, rfl⟩ | ⟨_, _, -, he, -⟩ := step_cases h <;> cases hin.symm.trans he
  rfl

/-- Every other step that answers a next state takes the first checksum byte, or the second, or leaves the candidate's registers
alone. -/
theorem step_candidate_cases {s t : State} (h : step s = .next t) (hnr : ∀ cfg held rest, s.input ≠ .reset cfg held :: rest) :
    (∃ tok, s.presentsChecksumByte tok ∧ s.idx = 0#8 ∧
      t = { s with input := s.input.tail, c0 := some (Token.d tok), idx := 1#8 }) ∨
    (∃ tok c0 p, s.presentsChecksumByte tok ∧ s.idx = 1#8 ∧ s.c0 = some c0 ∧ s.payload = some p ∧
      t = evaluate c0 (Token.d tok) p { s with input := s.input.tail }) ∨
    ((∀ tok, ¬ s.presentsChecksumByte tok) ∧
      t = { s with input := t.input, st := t.st, idx := t.idx, pbuf := t.pbuf, events := t.events }) := by
  obtain ⟨-, hin, rfl⟩ | ⟨rest, -, hin, rfl⟩ | ⟨c, held, rest, -, hin, -⟩ | ⟨tok, rest, -, hin, hexec⟩ := step_cases h
  · exact .inr (.inr ⟨by simp [State.presentsChecksumByte, hin], rfl⟩)
  · exact .inr (.inr ⟨by simp [State.presentsChecksumByte, hin], rfl⟩)
  · exact absurd hin (hnr c held rest)
  · by_cases hbyte : s.st = St.readChecksum ∧ Token.k tok = 0#1
    · obtain ⟨hst, hk⟩ := hbyte
      have hp : s.presentsChecksumByte tok := ⟨⟨rest, hin⟩, hst, hk⟩
      rw [dispatch_readChecksum_byte hst hk] at hexec
      obtain ⟨hidx, rfl⟩ | ⟨hidx, c0, p, hc0, hpay, rfl⟩ := execByteReadChecksum_next hexec
      · exact .inl ⟨tok, hp, hidx, by simp [hin]⟩
      · exact .inr (.inl ⟨tok, c0, p, hp, hidx, hc0, hpay, by simp [hin]⟩)
    · have hother := dispatch_ne_byteReadChecksum fun hst hk => hbyte ⟨hst, hk⟩
      obtain ⟨ht, -⟩ := exec_next_of_ne_byteReadChecksum hother hexec
      refine .inr (.inr ⟨?_, ?_⟩)
      · rintro tok' ⟨⟨rest', hin'⟩, hst, hk⟩
        cases hin.symm.trans hin'
        exact hbyte ⟨hst, hk⟩
      · rw [ht]

/-! ### Whether the next step evaluates a candidate (R27, R28, R115) -/

theorem secondChecksumByte_of_presents {s : State} {tok : Token} (h : s.presentsChecksumByte tok) :
    s.secondChecksumByte = if s.idx = 1#8 then some (Token.d tok) else none := by
  obtain ⟨⟨rest, hin⟩, hst, hk⟩ := h
  simp [State.secondChecksumByte, hin, hst, hk]

theorem secondChecksumByte_of_not_presents {s : State} (h : ∀ tok, ¬ s.presentsChecksumByte tok) :
    s.secondChecksumByte = none := by
  unfold State.secondChecksumByte
  split
  · rename_i tok rest hin
    exact if_neg fun ⟨hst, _, hk⟩ => h tok ⟨⟨rest, hin⟩, hst, hk⟩
  · rfl

theorem matchesNext_of_none {s : State} (h : s.secondChecksumByte = none) : s.matchesNext = false := by
  simp [State.matchesNext, h]

theorem matchesNext_of_some {s : State} {d c0 : Byte} {p : List Byte} (h : s.secondChecksumByte = some d) (hc0 : s.c0 = some c0)
    (hp : s.payload = some p) : s.matchesNext = checksumOk s.cfg c0 d p := by
  simp [State.matchesNext, h, hc0, hp]

/-- A step without a reset evaluates a candidate, or keeps both counters and the header flag. -/
theorem step_evaluation_cases {s t : State} (h : step s = .next t) (hnr : ∀ cfg held rest, s.input ≠ .reset cfg held :: rest) :
    (∃ d c0 p, s.secondChecksumByte = some d ∧ s.c0 = some c0 ∧ s.payload = some p ∧
      t = evaluate c0 d p { s with input := s.input.tail }) ∨
    (s.secondChecksumByte = none ∧ t.total = s.total ∧ t.valid = s.valid ∧ t.hdrDone = s.hdrDone) := by
  obtain ⟨tok, hp, hidx, rfl⟩ | ⟨tok, c0, p, hp, hidx, hc0, hpay, ht⟩ | ⟨hnp, ht⟩ := step_candidate_cases h hnr
  · exact .inr ⟨by simp [secondChecksumByte_of_presents hp, hidx], rfl, rfl, rfl⟩
  · exact .inl ⟨Token.d tok, c0, p, by simp [secondChecksumByte_of_presents hp, hidx], hc0, hpay, ht⟩
  · exact .inr ⟨secondChecksumByte_of_not_presents hnp, by rw [ht], by rw [ht], by rw [ht]⟩

/-! ### The counters (R27, R28) -/

/-- Settles O26: the counters move at an evaluation only, `valid` by the outcome of its checksum test. -/
theorem countersChangeOnlyAtAnEvaluation : Obligations.CountersChangeOnlyAtAnEvaluation := by
  intro s t h
  refine ⟨fun cfg held rest hin => ?_, fun hnr => ?_⟩
  · rw [step_next_of_reset h hin]; exact ⟨rfl, rfl⟩
  · obtain ⟨d, c0, p, hsome, hc0, hp, rfl⟩ | ⟨hnone, htotal, hvalid, -⟩ := step_evaluation_cases h hnr
    · simp [State.evaluatesNext, hsome, matchesNext_of_some hsome hc0 hp, evaluate_total, evaluate_valid]
    · simp [State.evaluatesNext, hnone, matchesNext_of_none hnone, htotal, hvalid]

/-! ### The header flag (R26) -/

/-- A step without a reset raises the header flag exactly at a match whose payload holds a record. -/
theorem step_hdrDone {s t : State} (h : step s = .next t) (hnr : ∀ cfg held rest, s.input ≠ .reset cfg held :: rest) :
    t.hdrDone = (s.hdrDone || (s.matchesNext && decide (42 ≤ s.cfg.plen - 1))) := by
  obtain ⟨d, c0, p, hsome, hc0, hp, rfl⟩ | ⟨hnone, -, -, hhdr⟩ := step_evaluation_cases h hnr
  · have hlen : p.length = s.cfg.plen := ((State.payload_eq_some_iff s p).1 hp).1
    rw [evaluate_hdrDone, matchesNext_of_some hsome hc0 hp, hlen]
  · simp [matchesNext_of_none hnone, hhdr]

/-- The step that raises the header flag emits `HDR` and then its record. -/
theorem step_events_of_header {s t : State} (h : step s = .next t) (hnr : ∀ cfg held rest, s.input ≠ .reset cfg held :: rest)
    (hs : s.hdrDone = false) (ht : t.hdrDone = true) : ∃ r, t.events = s.events ++ [.hdr, .record r] := by
  obtain ⟨d, c0, p, -, -, -, rfl⟩ | ⟨-, -, -, hhdr⟩ := step_evaluation_cases h hnr
  · exact evaluate_events_of_header (s := { s with input := s.input.tail }) hs ht
  · simp [hhdr, hs] at ht

/-- Settles O27: the step's clauses are `step_hdrDone` and `step_events_of_header`; that no other row reads or writes the flag is
`exec_next_of_ne_byteReadChecksum` at an unchanged `c0`. -/
theorem headerFlagSetByTheFirstRecord : Obligations.HeaderFlagSetByTheFirstRecord := by
  refine ⟨fun s t h => ⟨fun cfg held rest hin => ?_, fun hnr => ⟨step_hdrDone h hnr, step_events_of_header h hnr⟩⟩,
    fun i s t b hi h => ?_⟩
  · rw [step_next_of_reset h hin]; rfl
  · obtain ⟨ht, hsame⟩ := exec_next_of_ne_byteReadChecksum hi h
    have hc0 : t.c0 = s.c0 := by rw [ht]
    exact ⟨by rw [ht], by simpa only [← hc0] using hsame b s.c0⟩

/-! ### The held checksum byte (R25) -/

/-- The first checksum byte is kept. -/
theorem step_c0_of_first {s t : State} {tok : Token} (h : step s = .next t) (hp : s.presentsChecksumByte tok) (hidx : s.idx = 0#8) :
    t.c0 = some (Token.d tok) := by
  obtain ⟨rest, hin⟩ := hp.1
  obtain ⟨tok', ⟨⟨rest', hin'⟩, -, -⟩, -, rfl⟩ | ⟨_, _, _, -, hone, -⟩ | ⟨hnp, -⟩ := step_candidate_cases h (by simp [hin])
  · cases hin.symm.trans hin'; rfl
  · simp [hidx] at hone
  · exact absurd hp (hnp tok)

/-- A step that neither resets nor takes a first checksum byte keeps `c0`. -/
theorem step_keeps_c0 {s t : State} (h : step s = .next t) (hnr : ∀ cfg held rest, s.input ≠ .reset cfg held :: rest)
    (hnf : ∀ tok, s.presentsChecksumByte tok → s.idx ≠ 0#8) : t.c0 = s.c0 := by
  obtain ⟨tok, hp, hidx, -⟩ | ⟨tok, c0, p, -, -, -, -, rfl⟩ | ⟨-, ht⟩ := step_candidate_cases h hnr
  · exact absurd hidx (hnf tok hp)
  · obtain ⟨-, -, -, hc0⟩ := evaluate_frame c0 (Token.d tok) p { s with input := s.input.tail }
    exact hc0
  · rw [ht]

/-- Settles O29: the step's clauses are `step_c0_of_first` and `step_keeps_c0`; that no other row reads or writes `c0` is
`exec_next_of_ne_byteReadChecksum` at an unchanged header flag, and the first checksum byte overwrites it unread. -/
theorem firstChecksumByteIsHeld : Obligations.FirstChecksumByteIsHeld := by
  refine ⟨fun s t h => ⟨fun cfg held rest hin => ?_, fun tok rest hin hst hidx hk => ?_, fun hnr hnf => ?_⟩,
    fun i s t c hi h => ?_, fun d s c hidx => ?_⟩
  · rw [step_next_of_reset h hin]; rfl
  · exact step_c0_of_first h ⟨⟨rest, hin⟩, hst, hk⟩ hidx
  · exact step_keeps_c0 h hnr fun tok ⟨⟨rest, hin⟩, hst, hk⟩ hidx => hnf tok rest hin hst hidx hk
  · obtain ⟨ht, hsame⟩ := exec_next_of_ne_byteReadChecksum hi h
    have hhdr : t.hdrDone = s.hdrDone := by rw [ht]
    exact ⟨by rw [ht], by simpa only [← hhdr] using hsame s.hdrDone c⟩
  · simp only [exec]
    rw [execByteReadChecksum_first hidx, execByteReadChecksum_first (s := { s with c0 := c }) hidx]

end Sys2Proof.Machine
end

section
/-! The payload bytes: the one store that writes the buffer (R43), and the mixed-width views of four of its bytes (R48). -/

namespace Sys2Proof.Machine

/-! ### What a token does to the buffer (R43) -/

/-- BYTE.READ_PACKET stores its byte at `idx`, at the last byte of the payload too. -/
theorem execByteReadPacket_pbuf {d : Byte} {s t : State} (h : execByteReadPacket d s = .next t) :
    t.pbuf = s.pbuf.write s.idx.toNat d := by
  obtain ⟨-, rfl⟩ | ⟨-, id, -, rfl⟩ := execByteReadPacket_next h <;> rfl

/-- BYTE.READ_CHECKSUM keeps the buffer, at both checksum bytes. -/
theorem execByteReadChecksum_pbuf {d : Byte} {s t : State} (h : execByteReadChecksum d s = .next t) : t.pbuf = s.pbuf := by
  obtain ⟨-, rfl⟩ | ⟨-, c0, p, -, -, rfl⟩ := execByteReadChecksum_next h
  · rfl
  · obtain ⟨-, -, hpbuf, -⟩ := evaluate_frame c0 d p s
    exact hpbuf

/-- A token that is no BYTE in READ_PACKET keeps the buffer. -/
theorem exec_dispatch_keeps_pbuf {s t : State} {tok : Token} (h : exec (s.dispatch tok) s = .next t)
    (hother : s.st = St.readPacket → Token.k tok ≠ 0#1) : t.pbuf = s.pbuf := by
  obtain ⟨-, -, rfl⟩ | ⟨-, -, rfl⟩ | ⟨-, -, -, rfl⟩ | ⟨-, -, -, rfl⟩ | ⟨hst, hk, -⟩ | ⟨-, -, hcheck⟩ | ⟨-, -, -, -, rfl⟩ | ⟨-, rfl⟩ :=
    exec_dispatch_cases h
  · rfl
  · rfl
  · rfl
  · rfl
  · exact absurd hk (hother hst)
  · exact execByteReadChecksum_pbuf hcheck
  · rfl
  · rfl

/-! ### What a step does to the buffer (R43) -/

theorem step_pbuf_of_packetByte {s t : State} {tok : Token} {rest : List HostMove} (h : step s = .next t)
    (hin : s.input = .present tok :: rest) (hst : s.st = St.readPacket) (hk : Token.k tok = 0#1) :
    t.pbuf = s.pbuf.write s.idx.toNat (Token.d tok) := by
  obtain ⟨-, he, -⟩ | ⟨_, -, he, -⟩ | ⟨_, _, _, -, he, -⟩ | ⟨_, _, -, he, hexec⟩ := step_cases h <;> cases hin.symm.trans he
  rw [dispatch_readPacket_byte hst hk] at hexec
  exact execByteReadPacket_pbuf (s := { s with input := rest }) hexec

theorem step_keeps_pbuf {s t : State} (h : step s = .next t) (hnr : ∀ cfg held rest, s.input ≠ .reset cfg held :: rest)
    (hother : ∀ tok rest, s.input = .present tok :: rest → s.st = St.readPacket → Token.k tok ≠ 0#1) : t.pbuf = s.pbuf := by
  obtain ⟨-, -, rfl⟩ | ⟨rest, -, -, rfl⟩ | ⟨c, held, rest, -, hin, -⟩ | ⟨tok, rest, -, hin, hexec⟩ := step_cases h
  · rfl
  · rfl
  · exact absurd hin (hnr c held rest)
  · exact exec_dispatch_keeps_pbuf (s := { s with input := rest }) hexec (hother tok rest hin)

/-- Settles O28: a reset empties the buffer, a BYTE in READ_PACKET is one `Memory.write` at `idx` (`Memory.read_write`), and every
other step keeps the buffer (`step_keeps_pbuf`). -/
theorem onlyReadPacketWritesTheBuffer : Obligations.OnlyReadPacketWritesTheBuffer := by
  intro s t h
  refine ⟨fun cfg held rest hin a => ?_, fun tok rest hin hst hk a => ?_, fun hnr hother a => ?_⟩
  · rw [step_next_of_reset h hin]; rfl
  · rw [step_pbuf_of_packetByte h hin hst hk, Memory.read_write]
  · rw [step_keeps_pbuf h hnr hother]

/-! ### The bytes of a composed value (R48) -/

theorem bytes16_le16 (b0 b1 : Byte) : bytes16 (le16 b0 b1) = [b0, b1] := by
  have h0 : (le16 b0 b1).extractLsb' 0 8 = b0 := by
    apply BitVec.eq_of_toNat_eq
    simp only [BitVec.extractLsb'_toNat, le16_toNat, Nat.shiftRight_eq_div_pow]
    omega
  have h1 : (le16 b0 b1).extractLsb' 8 8 = b1 := by
    apply BitVec.eq_of_toNat_eq
    simp only [BitVec.extractLsb'_toNat, le16_toNat, Nat.shiftRight_eq_div_pow]
    omega
  rw [bytes16, h0, h1]

theorem le32_toNat_eq_le16 (b0 b1 b2 b3 : Byte) :
    (le32 b0 b1 b2 b3).toNat = (le16 b0 b1).toNat + 2 ^ 16 * (le16 b2 b3).toNat := by
  rw [le32_toNat, le16_toNat, le16_toNat]; omega

/-- A field that lies within a field, read from the whole value. -/
theorem extractLsb'_extractLsb'_within {w start len start' len' : Nat} (v : BitVec w) (h : start + len ≤ len') :
    (v.extractLsb' start' len').extractLsb' start len = v.extractLsb' (start' + start) len := by
  ext i hi
  have hin : start + i < len' := by omega
  simp [hin, Nat.add_assoc]

/-- The low half-word of a word holds its first two bytes, the high one its last two. -/
theorem bytes32_eq_append (v : Word) : bytes32 v = bytes16 (v.extractLsb' 0 16) ++ bytes16 (v.extractLsb' 16 16) := by
  simp [bytes32, bytes16, extractLsb'_extractLsb'_within]

theorem bytes32_le32 (b0 b1 b2 b3 : Byte) : bytes32 (le32 b0 b1 b2 b3) = [b0, b1, b2, b3] := by
  have hlow : (le32 b0 b1 b2 b3).extractLsb' 0 16 = le16 b0 b1 := by
    apply BitVec.eq_of_toNat_eq
    simp only [BitVec.extractLsb'_toNat, le32_toNat_eq_le16, Nat.shiftRight_eq_div_pow]
    omega
  have hhigh : (le32 b0 b1 b2 b3).extractLsb' 16 16 = le16 b2 b3 := by
    apply BitVec.eq_of_toNat_eq
    simp only [BitVec.extractLsb'_toNat, le32_toNat_eq_le16, Nat.shiftRight_eq_div_pow]
    omega
  rw [bytes32_eq_append, hlow, hhigh, bytes16_le16, bytes16_le16]
  rfl

/-- Settles O50: the three views as arithmetic, and the bytes of the composed values. -/
theorem mixedWidthViewsAgree : Obligations.MixedWidthViewsAgree := fun b0 b1 b2 b3 =>
  ⟨le16_toNat b0 b1, le32_toNat_eq_le16 b0 b1 b2 b3, bytes32_le32 b0 b1 b2 b3, bytes16_le16 b0 b1⟩

end Sys2Proof.Machine
end

section
/-! The encoding: the data bits of an EOI token (R62), the rows of the dispatch map (R63) and the frame macros (R68). -/

namespace Sys2Proof.Machine

/-! ### The data bits of an EOI token (R62) -/

/-- No EOI row reads its data bits, and no row of states 5 to 7 reads its token. -/
theorem exec_ofFields_eoi (st : BitVec 3) (d d' : Byte) (s : State) :
    exec (Instr.ofFields st 1#1 d) s = exec (Instr.ofFields st 1#1 d') s := by
  rcases st_cases st with rfl | rfl | rfl | rfl | rfl | rfl | rfl | rfl <;> rfl

theorem exec_dispatch_eoiWith (d : Byte) (s : State) : exec (s.dispatch (Token.eoiWith d)) s = exec (s.dispatch Token.eoi) s := by
  rw [Token.eoi, dispatch_eq, dispatch_eq, Token.eoiWith_k, Token.eoiWith_k]
  exact exec_ofFields_eoi s.st _ _ s

theorem runToken_eoiWith (d : Byte) (s : State) : runToken (Token.eoiWith d) s = runToken Token.eoi s := by
  rw [runToken, runToken, exec_dispatch_eoiWith]

/-- Settles O11: the step runs the presented token, and an EOI runs alike with any data bits (`runToken_eoiWith`). -/
theorem eoiDataBitsAreIgnored : Obligations.EoiDataBitsAreIgnored :=
  ⟨rfl, fun s d rest => runToken_eoiWith d { s with input := rest }⟩

/-! ### The macros (R68) -/

theorem frame_eq (c : Config) (rb : List Byte) :
    frame c rb = [c.sync, c.sync, c.lenConst, c.deviceId] ++ rb ++
      checksumBytes c.csumOrder (checksum16 c.crcAlg (c.deviceId :: rb)) := by
  rw [frame, frameWith, BitVec.xor_zero]

@[simp] theorem length_presentBytes (bs : List Byte) : (presentBytes bs).length = bs.length := List.length_map _

/-- Settles O54: `frame_eq` with `checksumBytes` written out by its two orders; the moves of an item are `presentBytes` of its bytes,
and a default frame has 42 record bytes and six others (`length_frame`). -/
theorem macrosExpandToFrames : Obligations.MacrosExpandToFrames := by
  rintro c rb crc hrb rfl
  refine ⟨frame_eq c rb, rfl, fun _ => rfl, fun _ => rfl, rfl, rfl, fun _ => rfl, ?_⟩
  rintro rfl
  have hrec : rb.length = 42 := hrb
  rw [StreamItem.moves, length_presentBytes, length_frame, hrec]

/-! ### The rows of the dispatch map (R63) -/

theorem dispatchKey_st (st : BitVec 3) (t : Token) : Key.st (dispatchKey st t) = st :=
  BitVec.extractLsb'_append_eq_left

theorem dispatchKey_k (st : BitVec 3) (t : Token) : Key.k (dispatchKey st t) = Token.k t :=
  BitVec.extractLsb'_append_eq_of_add_le (by decide)

theorem dispatchKey_d (st : BitVec 3) (t : Token) : Key.d (dispatchKey st t) = Token.d t :=
  BitVec.extractLsb'_append_eq_of_add_le (by decide)

/-- Every key is a state's encoding before a token. -/
theorem key_eq_dispatchKey (k : Key) : dispatchKey (Key.st k) (k.extractLsb' 0 9) = k :=
  BitVec.extractLsb'_append_extractLsb'

/-- The mask `0xF00` keeps the state and the kind of a key and clears its data bits. -/
theorem dispatchKey_and_head (st : BitVec 3) (t : Token) :
    dispatchKey st t &&& 0xF00#12 = dispatchKey st (Token.k t ++ 0#8) := by
  have hmask : (0xF00#12 : Key) = 7#3 ++ (1#1 ++ 0#8) := rfl
  have htoken : t = Token.k t ++ Token.d t := (BitVec.extractLsb'_append_extractLsb' (w := 1) (len := 8)).symm
  have hst : st &&& 7#3 = st := BitVec.and_allOnes
  have hk : Token.k t &&& 1#1 = Token.k t := BitVec.and_allOnes
  calc dispatchKey st t &&& 0xF00#12
      = (st ++ (Token.k t ++ Token.d t)) &&& (7#3 ++ (1#1 ++ 0#8)) := by rw [← htoken, ← hmask, dispatchKey]
    _ = (st &&& 7#3) ++ ((Token.k t &&& 1#1) ++ (Token.d t &&& 0#8)) := by rw [BitVec.and_append, BitVec.and_append]
    _ = dispatchKey st (Token.k t ++ 0#8) := by rw [hst, hk, BitVec.and_zero, dispatchKey]

/-- No row tests a data bit, so a key fits the rows that its state and kind fit. -/
theorem rowsFitting_dispatchKey (st : BitVec 3) (t : Token) :
    (opcodeRows.filter fun r => r.fits (dispatchKey st t)) =
      opcodeRows.filter fun r => r.fits (dispatchKey st (Token.k t ++ 0#8)) := by
  have hmasks : ∀ r ∈ opcodeRows, 0xF00#12 &&& r.mask = r.mask := by decide
  refine List.filter_congr fun r hr => ?_
  rw [← dispatchKey_and_head, OpcodeRow.fits, OpcodeRow.fits, BitVec.and_assoc, hmasks r hr]

/-- Each of the sixteen pairs of a state and a kind fits one row, the one `Instr.ofFields` names. -/
theorem rowsFitting_head (st : BitVec 3) (k : BitVec 1) :
    (opcodeRows.filter fun r => r.fits (dispatchKey st (k ++ 0#8))).map OpcodeRow.mnemonic =
      [(Instr.ofFields st k 0#8).mnemonic] := by
  revert st k; decide

/-- The instruction of a key's fields has the name of its row, whatever the data bits, and belongs to its state. -/
theorem ofFields_mnemonic_st (st : BitVec 3) (k : BitVec 1) (d : Byte) :
    (Instr.ofFields st k d).mnemonic = (Instr.ofFields st k 0#8).mnemonic ∧ (Instr.ofFields st k d).st = st := by
  rcases st_cases st with rfl | rfl | rfl | rfl | rfl | rfl | rfl | rfl <;>
    rcases kind_cases k with rfl | rfl <;> exact ⟨rfl, rfl⟩

/-- Settles O9: a key is a state before a token (`key_eq_dispatchKey`), its rows are those of its state and kind
(`rowsFitting_dispatchKey`), and these are one each (`rowsFitting_head`). -/
theorem everyKeyFitsExactlyOneRow : Obligations.EveryKeyFitsExactlyOneRow := by
  refine ⟨fun st t => ⟨dispatchKey_st st t, dispatchKey_k st t, dispatchKey_d st t⟩, rfl, fun k => ?_⟩
  rw [← key_eq_dispatchKey k]
  generalize Key.st k = st, k.extractLsb' 0 9 = t
  obtain ⟨hname, hst⟩ := ofFields_mnemonic_st st (Token.k t) (Token.d t)
  rw [decodeKey_dispatchKey, rowsFitting_dispatchKey, rowsFitting_head, dispatchKey_st, hname, hst]
  exact ⟨rfl, rfl⟩

end Sys2Proof.Machine
end

section
/-! The checksum (spec/40_checksum.md): the received checksum as arithmetic (R86). -/

namespace Sys2Proof.Machine

/-! ### The received checksum (R86) -/

/-- The high byte first: the second byte is the low one. -/
theorem compose_highFirst_eq_le16 (c0 c1 : Byte) : compose .highFirst c0 c1 = le16 c1 c0 := BitVec.or_comm ..

/-- The low byte first: the bytes are in little-endian order. -/
theorem compose_lowFirst_eq_le16 (c0 c1 : Byte) : compose .lowFirst c0 c1 = le16 c0 c1 := BitVec.or_comm ..

/-- Settles O51: in either order the two bytes are read as one `le16`, whose value is `le16_toNat`. -/
theorem composeFollowsTheOrder : Obligations.ComposeFollowsTheOrder := by
  intro c0 c1
  constructor
  · rw [compose_highFirst_eq_le16, le16_toNat, Nat.add_comm]
  · rw [compose_lowFirst_eq_le16, le16_toNat, Nat.add_comm]

end Sys2Proof.Machine
end

section
/-! The byte rows of framing (spec/41_framing.md R101 to R105), the end states (R109, R110), and the saturating counters (R107). -/

namespace Sys2Proof.Machine

/-! ### The head of a row's key (R63) -/

/-- The rows of a BYTE mask out its data bits. -/
theorem dispatchKey_byte_and_head (st : BitVec 3) (d : Byte) :
    dispatchKey st (Token.byte d) &&& 0xF00#12 = dispatchKey st (Token.byte 0#8) := by
  rw [dispatchKey_and_head, Token.byte_k, Token.byte]

/-- The rows of the states 5 to 7 mask out the whole token. -/
theorem dispatchKey_and_state (st : BitVec 3) (t : Token) : dispatchKey st t &&& 0xE00#12 = dispatchKey st 0#9 := by
  have hmask : 0xE00#12 = 7#3 ++ 0#9 := by decide
  have hst : st &&& 7#3 = st := BitVec.and_allOnes
  calc dispatchKey st t &&& 0xE00#12
      = (st &&& 7#3) ++ (t &&& 0#9) := by rw [dispatchKey, hmask, BitVec.and_append]
    _ = dispatchKey st 0#9 := by rw [hst, BitVec.and_zero, dispatchKey]

/-! ### The counters (R107) -/

/-- Settles O19: `CNT_W` bits hold the saturation value, which `satInc` keeps (`satInc_max`); below it the increment is exact
(`satInc_of_lt`) and stays in range. -/
theorem countersSaturate : Obligations.CountersSaturate := by
  intro cfg
  refine ⟨Nat.sub_add_cancel Nat.one_le_two_pow, satInc_max cfg, fun v hv => ?_⟩
  have hinc : satInc cfg v = v + 1 := satInc_of_lt hv
  exact ⟨hinc, by omega⟩

/-! ### The states that read one byte (R101 to R103) -/

/-- Settles O14: the row's equation is `execByteSearchSync_eq`, which writes back `st` when the byte is not `SYNC`. -/
theorem searchSyncScansForSync : Obligations.SearchSyncScansForSync := by
  intro d s
  have hexec : exec (.byteSearchSync d) s = _ := execByteSearchSync_eq d s
  refine ⟨dispatchKey_byte_and_head 0#3 d, rfl, hexec, fun hst hd => ?_⟩
  rw [hexec, if_neg hd, ← hst]

/-- From SEARCH_SYNC the bytes `SYNC x SYNC SYNC` with `x` another byte end in READ_LENGTH: the mismatch on `x` returns to
SEARCH_SYNC, and two more sync bytes are needed. -/
theorem steps_fed_sync_other_sync_sync {s : State} {x : Byte} {rest : List HostMove} (hc : s.cfg.wf = true)
    (hs : s.st = St.searchSync) (hx : x ≠ s.cfg.sync) :
    steps 4 (s.fed [s.cfg.sync, x, s.cfg.sync, s.cfg.sync] rest) = .next { s with st := St.readLength, input := rest } := by
  have hfound {bs : List Byte} : step (s.fed (s.cfg.sync :: bs) rest) = .next ((s.goto St.readSync).fed bs rest) := by
    rw [step_fed_searchSync hc hs, if_pos rfl, State.goto]
  have hlost {bs : List Byte} : step ((s.goto St.readSync).fed (x :: bs) rest) = .next (s.fed bs rest) := by
    rw [step_fed_readSync (s := s.goto St.readSync) hc rfl, State.goto_cfg, if_neg hx, ← hs]; rfl
  have hpair : step ((s.goto St.readSync).fed [s.cfg.sync] rest) = .next { s with st := St.readLength, input := rest } := by
    rw [step_fed_readSync (s := s.goto St.readSync) hc rfl, State.goto_cfg, if_pos rfl]; rfl
  rw [steps_succ hfound, steps_succ hlost, steps_succ hfound, steps_succ hpair, steps]

/-- Settles O15: the row's equation is `execByteReadSync_eq`, the four-byte run `steps_fed_sync_other_sync_sync`. -/
theorem readSyncRequiresASecondSync : Obligations.ReadSyncRequiresASecondSync :=
  ⟨fun d s => ⟨dispatchKey_byte_and_head 1#3 d, rfl, execByteReadSync_eq d s⟩,
    fun _ _ _ hc hs hx => steps_fed_sync_other_sync_sync hc hs hx⟩

/-- Settles O16: the two outcomes are `execByteReadLength_match` and `execByteReadLength_mismatch`; a sync byte that is not `LEN_CONST`
has the second. -/
theorem readLengthOpensAPayload : Obligations.ReadLengthOpensAPayload := by
  intro d s
  refine ⟨dispatchKey_byte_and_head 2#3 d, fun hd => ⟨if_pos hd, execByteReadLength_match hd⟩,
    fun hd => ⟨if_neg hd, execByteReadLength_mismatch hd⟩, fun hsync hne => ?_⟩
  exact execByteReadLength_mismatch (hsync ▸ hne)

/-! ### BYTE.READ_PACKET (R104) -/

theorem packetCondition_more {d : Byte} {s : State} (h : s.idx.toNat + 1 < s.cfg.plen) : packetCondition d s = .none := by
  unfold packetCondition; rw [if_pos (by omega), if_pos h]

theorem packetCondition_last {d id : Byte} {s : State} (h : s.idx.toNat + 1 = s.cfg.plen)
    (hid : (s.pbuf.write s.idx.toNat d).read 0 = some id) :
    packetCondition d s = if id = s.cfg.deviceId then .none else .mismatchDeviceId := by
  unfold packetCondition
  rw [if_pos (by omega), if_neg (by omega)]
  simp only [State.memWrite_pbuf, hid]

/-- The id cell after a store at `i`: the stored byte when `i` is the id cell, else what the cell held. -/
theorem Memory.read_zero_write {m : Memory} {i : Nat} {d id : Byte} (h : if i = 0 then id = d else m.read 0 = some id) :
    (m.write i d).read 0 = some id := by
  rw [Memory.read_write]
  by_cases hi : i = 0
  · rw [if_pos hi] at h; rw [if_pos hi.symm, h]
  · rw [if_neg hi] at h; rw [if_neg (Ne.symm hi), h]

/-- Before the last byte `idx` grows without wrapping, since `PLEN` is at most 253. -/
theorem idx_succ_toNat {s : State} (h : s.idx.toNat + 1 < s.cfg.plen) : (s.idx + 1#8).toNat = s.idx.toNat + 1 := by
  have hplen := s.cfg.plen_le
  rw [BitVec.toNat_add, BitVec.toNat_ofNat]
  omega

/-- Settles O17: the three clauses are `execByteReadPacket_range`, `execByteReadPacket_more` and `execByteReadPacket_last`; the stored
cell and the others are `Memory.read_write`. -/
theorem readPacketStoresAndChecksTheId : Obligations.ReadPacketStoresAndChecksTheId := by
  intro d s
  refine ⟨dispatchKey_byte_and_head 3#3 d, execByteReadPacket_range, fun hmore => ?_, fun id hlast hcell => ?_⟩
  · exact ⟨_, execByteReadPacket_more hmore, rfl, idx_succ_toNat hmore, Memory.read_write s.pbuf s.idx.toNat d,
      packetCondition_more hmore⟩
  · have hid := Memory.read_zero_write hcell
    have hcond : condition (.byteReadPacket d) s = _ := packetCondition_last hlast hid
    refine ⟨_, execByteReadPacket_last hlast hid, rfl, Memory.read_write s.pbuf s.idx.toNat d, fun hd => ?_, fun hd => ?_⟩
    · exact ⟨if_pos hd, by rw [hcond, if_pos hd]⟩
    · exact ⟨if_neg hd, by rw [hcond, if_neg hd]⟩

/-! ### BYTE.READ_CHECKSUM (R105, R106) -/

theorem checksumCondition_first {d : Byte} {s : State} (h : s.idx = 0#8) : checksumCondition d s = .none := by
  unfold checksumCondition; rw [if_pos (by simp [h]), if_pos h]

section SecondByte

variable {d c0 : Byte} {p : List Byte} {s : State} (hidx : s.idx = 1#8) (hc0 : s.c0 = some c0) (hp : s.payload = some p)

include hidx hc0 hp

theorem checksumCondition_mismatch (hok : checksumOk s.cfg c0 d p = false) : checksumCondition d s = .mismatchChecksum := by
  simp [checksumCondition, hidx, hc0, hp, hok]

theorem checksumCondition_structural (hok : checksumOk s.cfg c0 d p = true) (hu : unpack p = .structuralDecodeError) :
    checksumCondition d s = .structuralDecodeError := by
  simp [checksumCondition, hidx, hc0, hp, hok, hu]

theorem checksumCondition_record {r : Record} (hok : checksumOk s.cfg c0 d p = true) (hu : unpack p = .record r) :
    checksumCondition d s = .none := by
  simp [checksumCondition, hidx, hc0, hp, hok, hu]

end SecondByte

/-- A payload with 42 bytes after its device id holds a record (R131). -/
theorem unpack_record_of_le {p : List Byte} (h : 42 ≤ p.length - 1) : ∃ r, unpack p = .record r := by
  cases hu : unpack p with
  | record r => exact ⟨r, rfl⟩
  | structuralDecodeError => exact absurd h ((unpack_eq_structural_iff p).1 hu)

/-- Whatever its outcome, an evaluation counts the candidate, goes to SEARCH_SYNC with `idx` 0, and writes nothing else but `valid`, the
header flag and the events. -/
theorem evaluate_eq_update (c0 c1 : Byte) (p : List Byte) (s : State) :
    evaluate c0 c1 p s =
      { s with
        st := St.searchSync, idx := 0#8, total := satInc s.cfg s.total, valid := (evaluate c0 c1 p s).valid
        hdrDone := (evaluate c0 c1 p s).hdrDone, events := (evaluate c0 c1 p s).events } := by
  obtain ⟨-, h⟩ | ⟨-, -, h⟩ | ⟨-, r, -, h⟩ := evaluate_cases c0 c1 p s <;> rw [h]

/-- Settles O18: the range check and the first byte are `execByteReadChecksum_range` and `execByteReadChecksum_first`; the second byte
evaluates the candidate (`execByteReadChecksum_second`), with the three outcomes of `evaluate_cases`: a checksum mismatch, a payload too
short for a record, a record. -/
theorem readChecksumEvaluatesTheCandidate : Obligations.ReadChecksumEvaluatesTheCandidate := by
  intro d s
  refine ⟨dispatchKey_byte_and_head 4#3 d, execByteReadChecksum_range,
    fun hidx => ⟨execByteReadChecksum_first hidx, checksumCondition_first hidx⟩, fun c0 p hidx hc0 hlen hcells => ?_⟩
  have hp : s.payload = some p := (s.payload_eq_some_iff p).2 ⟨hlen, hcells⟩
  refine ⟨_, execByteReadChecksum_second hidx hc0 hp, evaluate_eq_update c0 d p s, fun hne => ?_, fun heq => ?_⟩
  · have hok : checksumOk s.cfg c0 d p = false := beq_false_of_ne hne
    rw [evaluate_mismatch hok]
    exact ⟨rfl, rfl, rfl, checksumCondition_mismatch hidx hc0 hp hok⟩
  · have hok : checksumOk s.cfg c0 d p = true := beq_iff_eq.2 heq
    rw [← hlen]
    refine ⟨by rw [evaluate_valid, if_pos hok], fun hshort => ?_, fun hlong => ?_⟩
    · have hu := (unpack_eq_structural_iff p).2 (Nat.not_le.2 hshort)
      rw [evaluate_structural hok hu]
      exact ⟨rfl, rfl, checksumCondition_structural hidx hc0 hp hok hu⟩
    · obtain ⟨r, hu⟩ := unpack_record_of_le hlong
      rw [evaluate_record hok hu]
      exact ⟨r, hu, rfl, rfl, checksumCondition_record hidx hc0 hp hok hu⟩

/-! ### EXITING (R109) -/

/-- A step with nothing presented and no move left. -/
theorem step_nil {s : State} (hc : s.cfg.wf = true) (hin : s.input = []) : step s = .next s := by
  simp only [step, hin, wait, hc, if_true]

/-- A step in which the host pauses. -/
theorem step_pause {s : State} {rest : List HostMove} (hc : s.cfg.wf = true) (hin : s.input = .pause :: rest) :
    step s = .next { s with input := rest } := by
  simp only [step, hin, wait, hc, if_true]

/-- A step in EXITING that is no reset takes the host's move and changes nothing else. -/
theorem step_exiting {s : State} (hc : s.cfg.wf = true) (hs : s.st = St.exiting) (hnr : ∀ m ∈ s.input, m.isReset = false) :
    step s = .next { s with input := s.input.tail } := by
  cases hin : s.input with
  | nil => rw [step_nil hc hin, List.tail_nil, ← hin]
  | cons m rest =>
    cases m with
    | pause => exact step_pause hc hin
    | present tok => rw [step_present hc hin, dispatch_exiting hs]; rfl
    | reset cfg held =>
      have hreset : (HostMove.reset cfg held).isReset = false := hnr _ (by simp [hin])
      cases hreset

theorem steps_exiting {n : Nat} {s : State} (hc : s.cfg.wf = true) (hs : s.st = St.exiting)
    (hnr : ∀ m ∈ s.input, m.isReset = false) : steps n s = .next { s with input := s.input.drop n } := by
  induction n generalizing s with
  | zero => rfl
  | succ n ih =>
    have hrest : ∀ m ∈ s.input.tail, m.isReset = false := fun m hm => hnr m (List.mem_of_mem_tail hm)
    rw [steps_succ (step_exiting hc hs hnr), ih (s := { s with input := s.input.tail }) hc hs hrest, List.drop_tail]

/-- Settles O21: the row leaves the state as it is, and a run in EXITING is `steps_exiting`, by induction on the number of steps. -/
theorem exitingAbsorbsEveryToken : Obligations.ExitingAbsorbsEveryToken :=
  ⟨fun k d _ => ⟨dispatchKey_and_state 7#3 (k ++ d), rfl, rfl⟩, fun _ _ hc hs hnr => steps_exiting hc hs hnr⟩

/-! ### The fault (R110) -/

/-- Several steps of which the first faults are that fault. -/
theorem steps_succ_fault {n : Nat} {s : State} {f : Fault} (h : step s = .fault f) : steps (n + 1) s = .fault f := by
  simp only [steps, h]

/-- Settles O22: each of the four kinds of state makes the token a row that faults, so the first step does and no later one is
defined (`steps_succ_fault`). -/
theorem illegalStatesFault : Obligations.IllegalStatesFault := by
  refine ⟨fun k d s => ⟨dispatchKey_and_state 5#3 (k ++ d), rfl, rfl⟩, fun k d s => ⟨dispatchKey_and_state 6#3 (k ++ d), rfl, rfl⟩,
    fun s tok rest n hc hin hill => steps_succ_fault ?_⟩
  rw [step_present hc hin]
  obtain hs | hs | ⟨hs, hk, hidx⟩ | ⟨hs, hk, hidx⟩ := hill
  · rw [dispatch_st5 hs]; rfl
  · rw [dispatch_st6 hs]; rfl
  · rw [dispatch_readPacket_byte hs hk]; exact execByteReadPacket_range (s := { s with input := rest }) hidx
  · rw [dispatch_readChecksum_byte hs hk]; exact execByteReadChecksum_range (s := { s with input := rest }) hidx

end Sys2Proof.Machine
end

section
/-! The field unpacker: the length check (R131), and each field as an integer of the payload bytes at its offset (R132 to R136). -/

namespace Sys2Proof.Machine

/-! ### The length check (R131) -/

/-- The payload the machine reads holds `PLEN` bytes (R44). -/
theorem State.length_of_payload_eq_some {s : State} {p : List Byte} (h : s.payload = some p) : p.length = s.cfg.plen :=
  ((s.payload_eq_some_iff p).1 h).1

/-- Settles O46: `unpack_eq_structural_iff` is the check on the list; the machine's payload has `PLEN = LEN_CONST - 2` bytes. -/
theorem unpackChecksTheLength : Obligations.UnpackChecksTheLength := by
  have hcheck (p : List Byte) : unpack p = .structuralDecodeError ↔ p.length - 1 < 42 :=
    (unpack_eq_structural_iff p).trans Nat.not_le
  refine ⟨hcheck, fun s _ p hp => ⟨?_, ?_⟩⟩
  · rw [hcheck, State.length_of_payload_eq_some hp]
    omega
  · unfold Config.plen
    omega

/-! ### The fields as integers (R133 to R135) -/

/-- What `unpack` answers is the record of the fixed offsets (R130). -/
theorem exists_eq_recordOf_of_unpack {p : List Byte} {r : Record} (h : unpack p = .record r) :
    ∃ hlen : 42 < p.length, r = recordOf p hlen := by
  unfold unpack at h
  split at h
  · cases h
  · cases h
    exact ⟨_, rfl⟩

/-- The `k` payload bytes at record offset `o` as an unsigned integer, the first byte lowest (R132). -/
def fieldRaw (p : List Byte) (o k : Nat) : Int :=
  ((List.range k).map fun j => ((p.getD (1 + o + j) 0#8).toNat : Int) * 256 ^ j).sum

theorem fieldRaw_zero (p : List Byte) (o : Nat) : fieldRaw p o 0 = 0 := rfl

/-- The next byte of a field stands one place higher. -/
theorem fieldRaw_succ {p : List Byte} {o k : Nat} (h : o + (k + 1) < p.length) :
    fieldRaw p o (k + 1) = fieldRaw p o k + (p[o + (k + 1)].toNat : Int) * 256 ^ k := by
  have hbyte : p.getD (1 + o + k) 0#8 = p[o + (k + 1)] := by
    rw [show 1 + o + k = o + (k + 1) by omega, List.getD_eq_getElem _ _ h]
  simp only [fieldRaw, List.range_succ, List.map_append, List.sum_append, List.map_singleton, List.sum_singleton, hbyte]

/-- The value of a field given by its record offset, its number of bytes and whether it is signed (R133 to R135). -/
def fieldValue (p : List Byte) (f : Nat × Nat × Bool) : Int :=
  if f.2.2 = true ∧ (256 : Int) ^ f.2.1 ≤ 2 * fieldRaw p f.1 f.2.1 then fieldRaw p f.1 f.2.1 - 256 ^ f.2.1 else fieldRaw p f.1 f.2.1

/-- A word of `k` bytes, read in two's complement, is the signed value of the field whose bytes it holds. -/
theorem toInt_eq_fieldValue {p : List Byte} {o k : Nat} {v : BitVec (8 * k)} (h : (v.toNat : Int) = fieldRaw p o k) :
    v.toInt = fieldValue p (o, k, true) := by
  have hpow : ((2 ^ (8 * k) : Nat) : Int) = 256 ^ k := by rw [Nat.pow_mul]; norm_cast
  have hsign : 2 * v.toNat < 2 ^ (8 * k) ↔ ¬ (256 : Int) ^ k ≤ 2 * fieldRaw p o k := by rw [← hpow, ← h]; omega
  simp only [BitVec.toInt_eq_toNat_cond, fieldValue, hsign, hpow, h, true_and, ite_not]

theorem s32At_toInt {p : List Byte} {o : Nat} (h : o + 4 < p.length) : (s32At p o h).toInt = fieldValue p (o, 4, true) := by
  refine toInt_eq_fieldValue (k := 4) ?_
  rw [fieldRaw_succ h, fieldRaw_succ (k := 2) (by omega), fieldRaw_succ (k := 1) (by omega), fieldRaw_succ (k := 0) (by omega),
    fieldRaw_zero, s32At, le32_toNat]
  simp only [Nat.reduceAdd]
  omega

theorem s16At_toInt {p : List Byte} {o : Nat} (h : o + 2 < p.length) : (s16At p o h).toInt = fieldValue p (o, 2, true) := by
  refine toInt_eq_fieldValue (k := 2) ?_
  rw [fieldRaw_succ h, fieldRaw_succ (k := 0) (by omega), fieldRaw_zero, s16At, le16_toNat]
  simp only [Nat.reduceAdd]
  omega

theorem u8At_toNat {p : List Byte} {o : Nat} (h : o + 1 < p.length) :
    ((u8At p o h).toNat : Int) = fieldValue p (o, 1, false) := by
  have hraw : fieldRaw p o 1 = (u8At p o h).toNat := by
    rw [fieldRaw_succ h, fieldRaw_zero, u8At, pow_zero, mul_one, zero_add]
  simp [fieldValue, hraw]

/-! ### The layout (R136) -/

/-- Settles O47: the record is `recordOf`, whose fields are `s32At`, `s16At` and `u8At` at the offsets of R136; each is its
`fieldValue`. -/
theorem unpackFollowsTheLayout : Obligations.UnpackFollowsTheLayout := by
  intro p r h
  obtain ⟨hlen, rfl⟩ := exists_eq_recordOf_of_unpack h
  change (recordOf p hlen).values = List.map (fieldValue p) _
  simp only [Record.values, recordOf, s32At_toInt, s16At_toInt, u8At_toNat, List.map_cons, List.map_nil]

end Sys2Proof.Machine
end

section
/-! The conditions the block recovers from (spec/60_exceptions.md R160, codes 2 to 6): what raises each, and what the step that
raises it answers (R162, R163). -/

namespace Sys2Proof.Machine

/-! ### What raises a recovered condition (R160) -/

/-- The codes 2 to 6: the conditions after which the run goes on in SEARCH_SYNC (R162, R163). -/
def Condition.isRecovered (c : Condition) : Bool := c.isMismatch || c == .structuralDecodeError

/-- `Recovers i s c`: the instruction `i` and the state `s` are of the one kind that raises the recovered condition `c`. That no other
kind raises one is `recovers_of_isRecovered`. -/
inductive Recovers : Instr → State → Condition → Prop
  | sync2 {d : Byte} {s : State} (hd : d ≠ s.cfg.sync) : Recovers (.byteReadSync d) s .mismatchSync2
  | length {d : Byte} {s : State} (hd : d ≠ s.cfg.lenConst) : Recovers (.byteReadLength d) s .mismatchLength
  | deviceId {d id : Byte} {s : State} (hlast : s.idx.toNat + 1 = s.cfg.plen)
      (hcell : (s.pbuf.write s.idx.toNat d).read 0 = some id) (hid : id ≠ s.cfg.deviceId) :
      Recovers (.byteReadPacket d) s .mismatchDeviceId
  | checksum {d c0 : Byte} {p : List Byte} {s : State} (hidx : s.idx = 1#8) (hc0 : s.c0 = some c0) (hp : s.payload = some p)
      (hok : checksumOk s.cfg c0 d p = false) : Recovers (.byteReadChecksum d) s .mismatchChecksum
  | structural {d c0 : Byte} {p : List Byte} {s : State} (hidx : s.idx = 1#8) (hc0 : s.c0 = some c0) (hp : s.payload = some p)
      (hok : checksumOk s.cfg c0 d p = true) (hu : unpack p = .structuralDecodeError) :
      Recovers (.byteReadChecksum d) s .structuralDecodeError

/-- BYTE.READ_PACKET recovers only from a wrong device id, at the last payload byte (R104). -/
theorem recovers_of_packetCondition {d : Byte} {s : State} :
    (packetCondition d s).isRecovered = true → Recovers (.byteReadPacket d) s (packetCondition d s) := by
  fun_cases packetCondition d s
  case case4 hrange hmore id hcell hid => exact fun _ => .deviceId (by omega) hcell hid
  all_goals exact nofun

/-- In range `idx` is 0 or 1, so past the first checksum byte it is 1 (R23). -/
theorem idx_eq_one_of_checksumInRange {s : State} (hrange : s.checksumInRange) (hidx : s.idx ≠ 0#8) : s.idx = 1#8 := by
  bv_omega

/-- BYTE.READ_CHECKSUM recovers only at the second byte: from a wrong checksum, or from a payload too short for a record (R105,
R106). -/
theorem recovers_of_checksumCondition {d : Byte} {s : State} :
    (checksumCondition d s).isRecovered = true → Recovers (.byteReadChecksum d) s (checksumCondition d s) := by
  fun_cases checksumCondition d s
  case case3 hrange hidx c0 p hp hc0 hok hu =>
    exact fun _ => .structural (idx_eq_one_of_checksumInRange hrange hidx) hc0 hp hok hu
  case case4 hrange hidx c0 p hp hc0 hok =>
    exact fun _ => .checksum (idx_eq_one_of_checksumInRange hrange hidx) hc0 hp (Bool.eq_false_of_not_eq_true hok)
  all_goals exact nofun

/-- A recovered condition is raised in one of the five ways of `Recovers`. -/
theorem recovers_of_isRecovered {i : Instr} {s : State} :
    (condition i s).isRecovered = true → Recovers i s (condition i s) := by
  fun_cases condition i s
  case case3 d hd => exact fun _ => .sync2 hd
  case case5 d hd => exact fun _ => .length hd
  case case6 d => exact recovers_of_packetCondition
  case case7 d => exact recovers_of_checksumCondition
  all_goals exact nofun

/-! ### What the step answers (R162, R163) -/

/-- Settles O24: the row of each of the four mismatches answers SEARCH_SYNC, and only the checksum's evaluates a candidate. -/
theorem mismatchResynchronises : Obligations.MismatchResynchronises := by
  intro i s h
  have hrec : Recovers i s (condition i s) := recovers_of_isRecovered (by simp [Condition.isRecovered, h])
  generalize condition i s = c at h hrec ⊢
  cases hrec with
  | sync2 hd => exact ⟨_, execByteReadSync_eq _ s, if_neg hd, rfl, rfl, rfl, rfl⟩
  | length hd => exact ⟨_, execByteReadLength_mismatch hd, rfl, rfl, rfl, rfl, rfl⟩
  | deviceId hlast hcell hid => exact ⟨_, execByteReadPacket_last hlast hcell, if_neg hid, rfl, rfl, rfl, rfl⟩
  | checksum hidx hc0 hp hok =>
    refine ⟨_, execByteReadChecksum_second hidx hc0 hp, ?_⟩
    rw [evaluate_mismatch hok]
    exact ⟨rfl, rfl, rfl, rfl, rfl⟩
  | structural => cases h

/-- A payload of the machine that is too short for a record comes of a `LEN_CONST` below 45 (R44, R131). -/
theorem lenConst_lt_of_structural {s : State} {p : List Byte} (hp : s.payload = some p) (hu : unpack p = .structuralDecodeError) :
    s.cfg.lenConst.toNat < 45 := by
  have hshort : ¬ 42 ≤ s.cfg.plen - 1 := State.length_of_payload_eq_some hp ▸ (unpack_eq_structural_iff p).1 hu
  unfold Config.plen at hshort
  omega

/-- Settles O25: only the evaluation of a matching candidate raises the error, and it then is `evaluate_structural`. -/
theorem structuralErrorSkipsTheRecord : Obligations.StructuralErrorSkipsTheRecord := by
  intro i s h
  have hrec : Recovers i s (condition i s) := recovers_of_isRecovered (by rw [h]; rfl)
  rw [h] at hrec
  cases hrec with
  | structural hidx hc0 hp hok hu =>
    refine ⟨⟨_, rfl⟩, lenConst_lt_of_structural hp hu, _, execByteReadChecksum_second hidx hc0 hp, ?_⟩
    rw [evaluate_structural hok hu]
    exact ⟨rfl, rfl, rfl, rfl, rfl⟩

end Sys2Proof.Machine
end

section
/-! The fault (spec/60_exceptions.md R160, R164): a meaning faults exactly under code 7, and what raises code 7 in READ_PACKET and
READ_CHECKSUM (R23, R34, R165). -/

namespace Sys2Proof.Machine

/-! ### Code 7 in READ_PACKET and READ_CHECKSUM (R23, R34, R165) -/

theorem packetCondition_range {d : Byte} {s : State} (h : s.cfg.plen ≤ s.idx.toNat) : packetCondition d s = .illegalState :=
  if_neg (Nat.not_lt.2 h)

theorem packetCondition_unwritten {d : Byte} {s : State} (h : s.idx.toNat + 1 = s.cfg.plen)
    (hid : (s.pbuf.write s.idx.toNat d).read 0 = none) : packetCondition d s = .illegalState := by
  unfold packetCondition
  rw [if_pos (by omega), if_neg (by omega)]
  simp only [State.memWrite_pbuf, hid]

theorem checksumCondition_range {d : Byte} {s : State} (h : 1 < s.idx.toNat) : checksumCondition d s = .illegalState :=
  if_neg (Nat.not_le.2 h)

theorem checksumCondition_unwritten {d : Byte} {s : State} (hidx : s.idx = 1#8) (h : s.c0 = none ∨ s.payload = none) :
    checksumCondition d s = .illegalState := by
  obtain hc0 | hp := h
  · simp [checksumCondition, hidx, hc0]
  · cases hc0 : s.c0 <;> simp [checksumCondition, hidx, hc0, hp]

/-- At the second checksum byte an unwritten `c0` or payload cell faults (R34). -/
theorem execByteReadChecksum_unwritten {d : Byte} {s : State} (hidx : s.idx = 1#8) (h : s.c0 = none ∨ s.payload = none) :
    execByteReadChecksum d s = raiseIllegalState := by
  obtain hc0 | hp := h
  · simp [execByteReadChecksum, hidx, hc0]
  · cases hc0 : s.c0 <;> simp [execByteReadChecksum, hidx, hc0, hp]

/-- A payload with an unwritten cell cannot be read. -/
theorem State.payload_eq_none {s : State} {a : Nat} (ha : a < s.cfg.plen) (h : s.pbuf.read a = none) : s.payload = none := by
  rw [Option.eq_none_iff_forall_ne_some]
  intro p hp
  obtain ⟨hlen, hcells⟩ := (s.payload_eq_some_iff p).1 hp
  rw [hcells a ha, List.getElem?_eq_none_iff] at h
  omega

/-- Settles O1: the reset values are those of `State.reset`, and the three reads of an unwritten cell are
`execByteReadChecksum_unwritten`, of `c0` and of the payload, and `execByteReadPacket_unwritten`. -/
theorem resetStateAndUnwrittenReads : Obligations.ResetStateAndUnwrittenReads := by
  refine ⟨⟨rfl, rfl, rfl, rfl, rfl, rfl, fun _ => rfl⟩, fun d s hidx hc0 => ?_, fun d s a hidx ha hcell => ?_,
    fun d s hpos hlast hcell => ?_⟩
  · exact execByteReadChecksum_unwritten hidx (.inl hc0)
  · exact execByteReadChecksum_unwritten hidx (.inr (State.payload_eq_none ha hcell))
  · exact execByteReadPacket_unwritten hlast (by rw [Memory.read_write, if_neg (by omega), hcell])

/-! ### A meaning faults exactly under code 7 (R160, R164) -/

/-- The answer `r` fits the condition `c`: the fault under code 7, a next state under every other code. -/
def Condition.Explains (c : Condition) (r : Result) : Prop :=
  (c = .illegalState ∧ r = raiseIllegalState) ∨ (c ≠ .illegalState ∧ ∃ t, r = .next t)

theorem packetCondition_explains (d : Byte) (s : State) : (packetCondition d s).Explains (execByteReadPacket d s) := by
  rcases lt_trichotomy (s.idx.toNat + 1) s.cfg.plen with hmore | hlast | hrange
  · exact .inr ⟨by simp [packetCondition_more hmore], _, execByteReadPacket_more hmore⟩
  · cases hcell : (s.pbuf.write s.idx.toNat d).read 0 with
    | none => exact .inl ⟨packetCondition_unwritten hlast hcell, execByteReadPacket_unwritten hlast hcell⟩
    | some id =>
      refine .inr ⟨?_, _, execByteReadPacket_last hlast hcell⟩
      rw [packetCondition_last hlast hcell]
      split <;> exact nofun
  · exact .inl ⟨packetCondition_range (by omega), execByteReadPacket_range (by omega)⟩

/-- The second checksum byte of a written candidate raises no fault (R105). -/
theorem checksumCondition_ne_illegalState {d c0 : Byte} {p : List Byte} {s : State} (hidx : s.idx = 1#8) (hc0 : s.c0 = some c0)
    (hp : s.payload = some p) : checksumCondition d s ≠ .illegalState := by
  obtain ⟨hok, -⟩ | ⟨hok, hu, -⟩ | ⟨hok, r, hu, -⟩ := evaluate_cases c0 d p s
  · rw [checksumCondition_mismatch hidx hc0 hp hok]; exact nofun
  · rw [checksumCondition_structural hidx hc0 hp hok hu]; exact nofun
  · rw [checksumCondition_record hidx hc0 hp hok hu]; exact nofun

theorem checksumCondition_explains (d : Byte) (s : State) : (checksumCondition d s).Explains (execByteReadChecksum d s) := by
  by_cases hrange : s.checksumInRange
  · by_cases hzero : s.idx = 0#8
    · exact .inr ⟨by simp [checksumCondition_first hzero], _, execByteReadChecksum_first hzero⟩
    · have hone := idx_eq_one_of_checksumInRange hrange hzero
      cases hc0 : s.c0 with
      | none => exact .inl ⟨checksumCondition_unwritten hone (.inl hc0), execByteReadChecksum_unwritten hone (.inl hc0)⟩
      | some c0 =>
        cases hp : s.payload with
        | none => exact .inl ⟨checksumCondition_unwritten hone (.inr hp), execByteReadChecksum_unwritten hone (.inr hp)⟩
        | some p => exact .inr ⟨checksumCondition_ne_illegalState hone hc0 hp, _, execByteReadChecksum_second hone hc0 hp⟩
  · exact .inl ⟨checksumCondition_range (Nat.not_le.1 hrange), execByteReadChecksum_range (Nat.not_le.1 hrange)⟩

/-- The condition an EOI raises behind the range check of its state (R23, R165; log entry 17). -/
theorem eoiCondition_explains (q : Prop) [Decidable q] (s : State) :
    (if q then Condition.endOfInput else .illegalState).Explains (if q then .next s.printStats else raiseIllegalState) := by
  by_cases h : q
  · rw [if_pos h, if_pos h]; exact .inr ⟨nofun, _, rfl⟩
  · rw [if_neg h, if_neg h]; exact .inl ⟨rfl, rfl⟩

/-- The condition of every instruction fits what its meaning answers, in every state. -/
theorem condition_explains_exec (i : Instr) (s : State) : (condition i s).Explains (exec i s) := by
  cases i with
  | byteSearchSync d => exact .inr ⟨nofun, _, execByteSearchSync_eq d s⟩
  | byteReadSync d => exact .inr ⟨by simp only [condition]; split <;> exact nofun, _, execByteReadSync_eq d s⟩
  | byteReadLength d => exact .inr ⟨by simp only [condition]; split <;> exact nofun, _, execByteReadLength_eq d s⟩
  | byteReadPacket d => exact packetCondition_explains d s
  | byteReadChecksum d => exact checksumCondition_explains d s
  | eoiReadPacket => exact eoiCondition_explains s.packetInRange s
  | eoiReadChecksum => exact eoiCondition_explains s.checksumInRange s
  | eoiSearchSync | eoiReadSync | eoiReadLength | anyExiting => exact .inr ⟨nofun, _, rfl⟩
  | illegalSt5 | illegalSt6 => exact .inl ⟨rfl, rfl⟩

theorem exec_fault_of_condition {i : Instr} {s : State} (h : condition i s = .illegalState) :
    exec i s = .fault .illegalState := by
  obtain ⟨-, hexec⟩ | ⟨hne, -⟩ := condition_explains_exec i s
  · exact hexec
  · exact absurd h hne

theorem exec_next_of_condition {i : Instr} {s : State} (h : condition i s ≠ .illegalState) : ∃ t, exec i s = .next t := by
  obtain ⟨hill, -⟩ | ⟨-, hexec⟩ := condition_explains_exec i s
  · exact absurd hill h
  · exact hexec

/-- Settles O23: `condition_explains_exec`, by one case per instruction; 7 is the code of IllegalState only. -/
theorem onlyIllegalStateFaults : Obligations.OnlyIllegalStateFaults := by
  refine ⟨⟨rfl, rfl, rfl, rfl, rfl, rfl, rfl, rfl⟩, fun i s => ⟨exec_fault_of_condition, exec_next_of_condition, ?_⟩⟩
  generalize condition i s = c
  cases c <;> simp [Condition.code]

/-! ### The range check comes first (R23, R165) -/

/-- `idx` is out of the range of its state (R23). -/
def State.idxOutOfRange (s : State) : Prop :=
  (s.st = St.readPacket ∧ s.cfg.plen ≤ s.idx.toNat) ∨ (s.st = St.readChecksum ∧ 1 < s.idx.toNat)

/-- Out of range, a token of either kind raises code 7. -/
theorem condition_dispatch_of_idxOutOfRange {s : State} (h : s.idxOutOfRange) (tok : Token) :
    condition (s.dispatch tok) s = .illegalState := by
  obtain ⟨hst, hidx⟩ | ⟨hst, hidx⟩ := h <;> rcases kind_cases (Token.k tok) with hk | hk
  · rw [dispatch_readPacket_byte hst hk]; exact packetCondition_range hidx
  · rw [dispatch_readPacket_eoi hst hk]; exact if_neg (Nat.not_lt.2 hidx)
  · rw [dispatch_readChecksum_byte hst hk]; exact checksumCondition_range hidx
  · rw [dispatch_readChecksum_eoi hst hk]; exact if_neg (Nat.not_le.2 hidx)

/-- Settles O57: the token's condition is code 7 (`condition_dispatch_of_idxOutOfRange`), under which its meaning faults. -/
theorem outOfRangeIdxFaultsEveryToken : Obligations.OutOfRangeIdxFaultsEveryToken := by
  intro s tok rest hc hin hout
  refine ⟨?_, condition_dispatch_of_idxOutOfRange hout tok⟩
  rw [step_present hc hin]
  exact exec_fault_of_condition (condition_dispatch_of_idxOutOfRange (s := { s with input := rest }) hout tok)

end Sys2Proof.Machine
end

section
/-! The encoding is a bijection (R60, R63), and a token's step runs the instruction its key decodes to (R100). -/

namespace Sys2Proof.Machine

/-! ### The fields of a token (R60) -/

@[simp] theorem token_k_append (k : BitVec 1) (d : Byte) : Token.k (k ++ d) = k := BitVec.extractLsb'_append_eq_left

@[simp] theorem token_d_append (k : BitVec 1) (d : Byte) : Token.d (k ++ d) = d := BitVec.extractLsb'_append_eq_right

/-- A token is its kind before its data. -/
theorem token_eq_append (t : Token) : t = Token.k t ++ Token.d t :=
  (BitVec.extractLsb'_append_extractLsb' (w := 1) (len := 8)).symm

/-- Settles O10: the fields of `BYTE(d)` and of an EOI are those of an appended pair, and every token is such a pair of one of the two
kinds. -/
theorem tokenFields : Obligations.TokenFields := by
  refine ⟨Token.fields_byte, Token.fields_eoiWith, fun t => ?_⟩
  have happ := token_eq_append t
  rcases kind_cases (Token.k t) with hk | hk <;> rw [hk] at happ
  · exact .inl ⟨hk, happ⟩
  · exact .inr ⟨hk, happ⟩

/-! ### Keys and instructions (R63) -/

/-- Every instruction is that of the fields of some key. -/
theorem exists_eq_ofFields (i : Instr) : ∃ st k d, i = Instr.ofFields st k d := by
  cases i with
  | byteSearchSync d => exact ⟨0#3, 0#1, d, rfl⟩
  | eoiSearchSync d => exact ⟨0#3, 1#1, d, rfl⟩
  | byteReadSync d => exact ⟨1#3, 0#1, d, rfl⟩
  | eoiReadSync d => exact ⟨1#3, 1#1, d, rfl⟩
  | byteReadLength d => exact ⟨2#3, 0#1, d, rfl⟩
  | eoiReadLength d => exact ⟨2#3, 1#1, d, rfl⟩
  | byteReadPacket d => exact ⟨3#3, 0#1, d, rfl⟩
  | eoiReadPacket d => exact ⟨3#3, 1#1, d, rfl⟩
  | byteReadChecksum d => exact ⟨4#3, 0#1, d, rfl⟩
  | eoiReadChecksum d => exact ⟨4#3, 1#1, d, rfl⟩
  | illegalSt5 k d => exact ⟨5#3, k, d, rfl⟩
  | illegalSt6 k d => exact ⟨6#3, k, d, rfl⟩
  | anyExiting k d => exact ⟨7#3, k, d, rfl⟩

/-- The encoder on the fields of a key, where the decoder is `decodeKey_dispatchKey`. -/
theorem encode_ofFields (st : BitVec 3) (k : BitVec 1) (d : Byte) :
    encode (Instr.ofFields st k d) = dispatchKey st (k ++ d) := by
  rcases st_cases st with rfl | rfl | rfl | rfl | rfl | rfl | rfl | rfl <;>
    rcases kind_cases k with rfl | rfl <;> rfl

theorem decodeKey_encode (i : Instr) : decodeKey (encode i) = i := by
  obtain ⟨st, k, d, rfl⟩ := exists_eq_ofFields i
  rw [encode_ofFields, decodeKey_dispatchKey, token_k_append, token_d_append]

theorem encode_decodeKey (k : Key) : encode (decodeKey k) = k := by
  rw [← key_eq_dispatchKey k, decodeKey_dispatchKey, encode_ofFields, ← token_eq_append]

/-! ### Keys as bytes (log entry 7) -/

/-- Two bytes whose upper four bits are zero are the key of their other bits. -/
theorem decode_keyBytes (k : Key) : decode [k.extractLsb' 0 8, 0#4 ++ k.extractLsb' 8 4] = .ok (decodeKey k) := by
  have hhigh : (0#4 ++ k.extractLsb' 8 4).extractLsb' 4 4 = 0#4 := BitVec.extractLsb'_append_eq_left
  have hkey : (0#4 ++ k.extractLsb' 8 4).extractLsb' 0 4 ++ k.extractLsb' 0 8 = k := by
    rw [BitVec.extractLsb'_append_eq_right, BitVec.extractLsb'_append_extractLsb']
  rw [decode, if_pos hhigh, hkey]

/-- The upper byte of a key's number holds its four bits above `D`. -/
theorem ofNat_key_shiftRight (k : Key) : BitVec.ofNat 8 (k.toNat >>> 8) = 0#4 ++ k.extractLsb' 8 4 := by
  have hlt := k.isLt
  apply BitVec.eq_of_toNat_eq
  rw [BitVec.toNat_append]
  simp [Nat.shiftRight_eq_div_pow]
  omega

theorem decodeTableWord_toNat {nbits : Nat} (h : nbits ≤ 16) (k : Key) :
    decodeTableWord nbits k.toNat = some (decodeKey k) := by
  have hfits : ¬ (16 < nbits ∨ 0x10000 ≤ k.toNat) := by have := k.isLt; omega
  have hlow : BitVec.ofNat 8 k.toNat = k.extractLsb' 0 8 := rfl
  rw [decodeTableWord, if_neg hfits, hlow, ofNat_key_shiftRight, decode_keyBytes]

theorem decode_of_length_ne_two {bytes : List Byte} (h : bytes.length ≠ 2) : decode bytes = .error .notTwoBytes := by
  unfold decode
  split
  · exact absurd rfl h
  · rfl

theorem decode_of_wide {low high : Byte} (h : 16 ≤ high.toNat) : decode [low, high] = .error .widerThanKey := by
  have hne : high.extractLsb' 4 4 ≠ 0#4 := by
    intro heq
    have hzero := congrArg BitVec.toNat heq
    have hlt := high.isLt
    simp only [BitVec.extractLsb'_toNat, Nat.shiftRight_eq_div_pow, BitVec.toNat_ofNat] at hzero
    omega
  rw [decode, if_neg hne]

/-- Settles O8: the decoder and the encoder are inverse on the fields of a key (`decodeKey_dispatchKey`, `encode_ofFields`), which every
key and every instruction has; bytes and table words carry the key. -/
theorem decodeAndEncodeAgree : Obligations.DecodeAndEncodeAgree := by
  refine ⟨decodeKey_encode, encode_decodeKey, fun i => ?_, fun i nbits hn => ?_, fun _ => decode_of_length_ne_two,
    fun _ _ => decode_of_wide⟩
  · rw [encodeBytes, decode_keyBytes, decodeKey_encode]
  · rw [decodeTableWord_toNat hn, decodeKey_encode]

/-- Settles O12: each of the thirteen keys by the decoder's tests. -/
theorem writtenOutKeysDecode : Obligations.WrittenOutKeysDecode := by
  unfold Obligations.WrittenOutKeysDecode
  decide

/-! ### The instruction of a token (R100) -/

/-- The instruction a token is in a state belongs to that state's rows. -/
theorem dispatch_runsIn (s : State) (tok : Token) : (s.dispatch tok).runsIn s.st = true := by
  obtain ⟨-, hst⟩ := ofFields_mnemonic_st s.st (Token.k tok) (Token.d tok)
  rw [dispatch_eq, Instr.runsIn, hst, beq_self_eq_true]

/-- A meaning completes or faults; none refuses. -/
theorem exec_ne_refused (i : Instr) (s : State) (r : Refusal) : exec i s ≠ .refused r := by
  obtain ⟨-, h⟩ | ⟨-, t, h⟩ := condition_explains_exec i s <;> rw [h] <;> exact nofun

/-- Settles O13: the step is `step_present`, and its instruction is one of the state's rows. -/
theorem stepRunsTheDecodedInstruction : Obligations.StepRunsTheDecodedInstruction := by
  intro s tok rest hc hin
  have hstep := step_present hc hin
  exact ⟨hstep, dispatch_runsIn s tok, fun r => hstep ▸ exec_ne_refused _ _ r⟩

end Sys2Proof.Machine
end

section
/-! What a step does to the configuration and the host's moves (R6, R8, R12, R41, R184), and the steps that run no token: reset (R180,
R181) and waiting (R188). -/

namespace Sys2Proof.Machine

/-- Settles O2: the step is `step_reset`, whose state holds every reset value. -/
theorem resetTakesPriorityOverAnyToken : Obligations.ResetTakesPriorityOverAnyToken :=
  fun _ _ _ _ hc hin => ⟨_, step_reset hc hin, rfl, rfl, rfl, rfl, rfl, rfl, fun _ => rfl, rfl, rfl, rfl⟩

/-! ### Configurations without a run (R8; log entry 9) -/

theorem Config.wf_eq_false_of_short {c : Config} (h : c.lenConst.toNat < 3) : c.wf = false := by
  simp [Config.wf, h]

theorem step_reset_refused {s : State} {c : Config} {held : Option Token} {rest : List HostMove} (hc : c.wf = false)
    (hin : s.input = .reset c held :: rest) : step s = .refused .illegalConfiguration := by
  simp [step, hin, takeReset, hc]

/-- Under an illegal configuration every step but a reset is refused. -/
theorem step_refused {s : State} (hc : s.cfg.wf = false) (hnr : ∀ cfg held rest, s.input ≠ .reset cfg held :: rest) :
    step s = .refused .illegalConfiguration := by
  unfold step
  split
  · simp [wait, hc]
  · simp [wait, hc]
  · exact absurd ‹_› (hnr _ _ _)
  · simp [runToken, hc]

/-- Settles O3: a short `LEN_CONST` is outside the legal range, so both kinds of step are refused; up to 44 the payload is shorter than
a record, so a matching candidate takes the structural path (`checksumCondition_structural`). -/
theorem shortLengthConstants : Obligations.ShortLengthConstants := by
  refine ⟨fun s hlen hnr => step_refused (Config.wf_eq_false_of_short hlen) hnr,
    fun s cfg held rest hlen hin => step_reset_refused (Config.wf_eq_false_of_short hlen) hin, fun cfg hlow hhigh hw => ⟨?_, ?_⟩,
    fun d c0 p s hhigh hidx hc0 hp heq => ?_⟩
  · simp [Config.wf, hlow, hw]
  · unfold Config.plen recBytes; omega
  · have hlen := State.length_of_payload_eq_some hp
    have hu : unpack p = .structuralDecodeError := (unpack_eq_structural_iff p).2 (by unfold Config.plen at hlen; omega)
    exact checksumCondition_structural hidx hc0 hp (beq_iff_eq.2 heq) hu

/-! ### The frame of a step (R6, R12, R184) -/

/-- Settles O6: each of the four kinds of step takes the first move, if there is one. -/
theorem eachStepTakesOneMove : Obligations.EachStepTakesOneMove := by
  intro s t h
  obtain ⟨-, hin, rfl⟩ | ⟨rest, -, hin, rfl⟩ | ⟨c, held, rest, -, hin, rfl⟩ | ⟨tok, rest, -, hin, hexec⟩ := step_cases h
  · rw [hin, List.tail_nil]
  · rw [hin, List.tail_cons]
  · rw [hin, List.tail_cons]
  · rw [(exec_frame hexec).2, hin, List.tail_cons]

theorem step_keeps_cfg {s t : State} (h : step s = .next t) (hnr : ∀ cfg held rest, s.input ≠ .reset cfg held :: rest) :
    t.cfg = s.cfg := by
  obtain ⟨-, -, rfl⟩ | ⟨rest, -, -, rfl⟩ | ⟨c, held, rest, -, hin, -⟩ | ⟨tok, rest, -, -, hexec⟩ := step_cases h
  · rfl
  · rfl
  · exact absurd hin (hnr c held rest)
  · exact (exec_frame hexec).1

/-- Settles O5: a reset takes the configuration it drives, and every other step keeps the present one (`step_keeps_cfg`). -/
theorem configurationFixedForARun : Obligations.ConfigurationFixedForARun := by
  intro s t h
  refine ⟨fun cfg held rest hin => ?_, step_keeps_cfg h⟩
  rw [step_next_of_reset h hin]

/-! ### Waiting (R188) -/

theorem steps_nil {n : Nat} {s : State} (hc : s.cfg.wf = true) (hin : s.input = []) : steps n s = .next s := by
  induction n with
  | zero => rfl
  | succ n ih => rw [steps_succ (step_nil hc hin), ih]

theorem steps_pauses {n : Nat} {s : State} {rest : List HostMove} (hc : s.cfg.wf = true)
    (hin : s.input = List.replicate n .pause ++ rest) : steps n s = .next { s with input := rest } := by
  induction n generalizing s with
  | zero => rw [steps, ← show s.input = rest from hin]
  | succ n ih =>
    rw [List.replicate_succ, List.cons_append] at hin
    rw [steps_succ (step_pause hc hin), ih (s := { s with input := List.replicate n .pause ++ rest }) hc rfl]

/-- Settles O7: by induction on the number of steps, with no move left (`steps_nil`) and with pauses (`steps_pauses`). -/
theorem waitingLeavesTheStateUnchanged : Obligations.WaitingLeavesTheStateUnchanged :=
  ⟨fun _ _ => steps_nil, fun _ _ _ => steps_pauses⟩

end Sys2Proof.Machine
end

section
/-! The invariant of the block: it holds after reset, every step keeps it, and under it no step faults (R22, R23, R29, R34, R110). -/

namespace Sys2Proof.Machine

/-! ### Where the invariant asks little -/

/-- The states in which no multi-byte read is under way and nothing is reserved (R21, R23). -/
def State.idle (s : State) : Prop :=
  s.st = St.searchSync ∨ s.st = St.readSync ∨ s.st = St.readLength ∨ s.st = St.exiting

theorem State.idle.ne_readPacket {s : State} (h : s.idle) : s.st ≠ St.readPacket := by
  obtain h | h | h | h := h <;> rw [h] <;> decide

theorem State.idle.ne_readChecksum {s : State} (h : s.idle) : s.st ≠ St.readChecksum := by
  obtain h | h | h | h := h <;> rw [h] <;> decide

/-- In an idle state the invariant speaks of no written cell and no device id. -/
theorem inv_of_idle {s : State} (hst : s.idle) (hcfg : s.cfg.wf = true) (hidx : s.idx = 0#8) (hwf : s.pbuf.wf = true)
    (hcells : ∀ c ∈ s.pbuf, c.1 < s.cfg.plen) (hle : s.valid ≤ s.total) (hfits : s.total ≤ s.cfg.maxCount) : Inv s := by
  have hp := hst.ne_readPacket
  have hk := hst.ne_readChecksum
  exact
    { cfgLegal := hcfg
      stLatched := by obtain h | h | h | h := hst <;> rw [h] <;> decide
      idxPacket := fun h => absurd h hp
      idxChecksum := fun h => absurd h hk
      idxElsewhere := fun _ _ => hidx
      pbufCanonical := hwf
      pbufCells := hcells
      packetWritten := fun h => absurd h hp
      payloadWritten := fun h => absurd h hk
      deviceChecked := fun h => absurd h hk
      c0Written := fun h => absurd h hk
      validLeTotal := hle
      totalFits := hfits }

/-- A change of `st`, `idx`, the moves and the events that ends in an idle state with `idx` 0 keeps the invariant. -/
theorem Inv.to_idle {s t : State} (h : Inv s) (hst : t.idle) (hidx : t.idx = 0#8)
    (ht : t = { s with st := t.st, idx := t.idx, input := t.input, events := t.events }) : Inv t := by
  rw [ht] at hst hidx ⊢
  exact inv_of_idle hst h.cfgLegal hidx h.pbufCanonical h.pbufCells h.validLeTotal h.totalFits

theorem Inv.idx_of_idle {s : State} (h : Inv s) (hst : s.idle) : s.idx = 0#8 :=
  h.idxElsewhere hst.ne_readPacket hst.ne_readChecksum

/-- The invariant does not speak of the host's moves. -/
theorem Inv.with_input {s : State} (h : Inv s) (moves : List HostMove) : Inv { s with input := moves } := by
  obtain ⟨h1, h2, h3, h4, h5, h6, h7, h8, h9, h10, h11, h12, h13⟩ := h
  exact ⟨h1, h2, h3, h4, h5, h6, h7, h8, h9, h10, h11, h12, h13⟩

/-- Settles O32: SEARCH_SYNC is idle, the buffer empty, and both counters 0. -/
theorem resetMeetsTheInvariant : Obligations.ResetMeetsTheInvariant :=
  fun _ _ hc => inv_of_idle (.inl rfl) hc rfl rfl nofun le_rfl (Nat.zero_le _)

/-! ### The payload under the invariant (R24, R34, R104) -/

/-- A store inside the payload adds no cell outside it (R24). -/
theorem Memory.cells_write {m : Memory} {n a : Nat} {b : Byte} (hm : ∀ c ∈ m, c.1 < n) (ha : a < n) :
    ∀ c ∈ m.write a b, c.1 < n := by
  intro c hc
  obtain rfl | hc := Memory.mem_write hc
  · exact ha
  · exact hm c hc

/-- A store at the first unwritten cell leaves the cells below the next one written (R34). -/
theorem Memory.written_write {m : Memory} {i : Nat} {b : Byte} (hm : ∀ a, a < i → (m.read a).isSome) :
    ∀ a, a < i + 1 → ((m.write i b).read a).isSome := by
  intro a ha
  rw [Memory.read_write]
  split
  · rfl
  · exact hm a (by omega)

/-- In READ_PACKET a byte may be stored at `idx`, and the cells up to it are written then. -/
theorem Inv.packet_store {s : State} (h : Inv s) (hst : s.st = St.readPacket) (d : Byte) :
    (s.pbuf.write s.idx.toNat d).wf = true ∧ (∀ c ∈ s.pbuf.write s.idx.toNat d, c.1 < s.cfg.plen) ∧
      ∀ a, a < s.idx.toNat + 1 → ((s.pbuf.write s.idx.toNat d).read a).isSome :=
  ⟨Memory.wf_write h.pbufCanonical _ _, Memory.cells_write h.pbufCells (h.idxPacket hst), Memory.written_write (h.packetWritten hst)⟩

/-- Before the last byte READ_PACKET goes on. -/
theorem Inv.packet_more {s : State} (h : Inv s) (hst : s.st = St.readPacket) (hmore : s.idx.toNat + 1 < s.cfg.plen) (d : Byte) :
    Inv { s with pbuf := s.pbuf.write s.idx.toNat d, idx := s.idx + 1#8 } := by
  obtain ⟨hwf, hcells, hwritten⟩ := h.packet_store hst d
  have hidx := idx_succ_toNat hmore
  have hk : s.st ≠ St.readChecksum := by rw [hst]; decide
  exact
    { cfgLegal := h.cfgLegal
      stLatched := h.stLatched
      idxPacket := fun _ => hidx ▸ hmore
      idxChecksum := fun he => absurd he hk
      idxElsewhere := fun hne => absurd hst hne
      pbufCanonical := hwf
      pbufCells := hcells
      packetWritten := fun _ a ha => hwritten a (hidx ▸ ha)
      payloadWritten := fun he => absurd he hk
      deviceChecked := fun he => absurd he hk
      c0Written := fun he => absurd he hk
      validLeTotal := h.validLeTotal
      totalFits := h.totalFits }

/-- After the last byte the device id chooses the state: READ_CHECKSUM with every cell written, or SEARCH_SYNC. -/
theorem Inv.packet_last {s : State} (h : Inv s) (hst : s.st = St.readPacket) (hlast : s.idx.toNat + 1 = s.cfg.plen) {d id : Byte}
    (hid : (s.pbuf.write s.idx.toNat d).read 0 = some id) :
    Inv { s with
      pbuf := s.pbuf.write s.idx.toNat d
      idx := 0#8
      st := if id = s.cfg.deviceId then St.readChecksum else St.searchSync } := by
  obtain ⟨hwf, hcells, hwritten⟩ := h.packet_store hst d
  by_cases hdev : id = s.cfg.deviceId
  · rw [if_pos hdev]
    exact
      { cfgLegal := h.cfgLegal
        stLatched := ⟨nofun, nofun⟩
        idxPacket := nofun
        idxChecksum := fun _ => Nat.zero_le 1
        idxElsewhere := fun _ _ => rfl
        pbufCanonical := hwf
        pbufCells := hcells
        packetWritten := nofun
        payloadWritten := fun _ a ha => hwritten a (hlast ▸ ha)
        deviceChecked := fun _ => hdev ▸ hid
        c0Written := nofun
        validLeTotal := h.validLeTotal
        totalFits := h.totalFits }
  · rw [if_neg hdev]
    exact inv_of_idle (.inl rfl) h.cfgLegal rfl hwf hcells h.validLeTotal h.totalFits

/-- A matching length byte opens a payload with no cell of it required yet (R103). -/
theorem Inv.open_packet {s : State} (h : Inv s) : Inv { s with idx := 0#8, st := St.readPacket } where
  cfgLegal := h.cfgLegal
  stLatched := ⟨nofun, nofun⟩
  idxPacket _ := s.cfg.plen_pos h.cfgLegal
  idxChecksum := nofun
  idxElsewhere hne := absurd rfl hne
  pbufCanonical := h.pbufCanonical
  pbufCells := h.pbufCells
  packetWritten _ _ ha := absurd ha (Nat.not_lt_zero _)
  payloadWritten := nofun
  deviceChecked := nofun
  c0Written := nofun
  validLeTotal := h.validLeTotal
  totalFits := h.totalFits

/-! ### The checksum under the invariant (R105) -/

theorem Inv.checksum_first {s : State} (h : Inv s) (hst : s.st = St.readChecksum) (d : Byte) :
    Inv { s with c0 := some d, idx := 1#8 } where
  cfgLegal := h.cfgLegal
  stLatched := h.stLatched
  idxPacket he := by rw [hst] at he; cases he
  idxChecksum _ := le_rfl
  idxElsewhere _ hne := absurd hst hne
  pbufCanonical := h.pbufCanonical
  pbufCells := h.pbufCells
  packetWritten he := by rw [hst] at he; cases he
  payloadWritten := h.payloadWritten
  deviceChecked := h.deviceChecked
  c0Written _ _ := rfl
  validLeTotal := h.validLeTotal
  totalFits := h.totalFits

/-- An evaluation increments `valid` only with `total`, so the two stay in order (R29). -/
theorem evaluate_valid_le_total {c0 c1 : Byte} {p : List Byte} {s : State} (hle : s.valid ≤ s.total)
    (hfits : s.total ≤ s.cfg.maxCount) : (evaluate c0 c1 p s).valid ≤ (evaluate c0 c1 p s).total := by
  rw [evaluate_valid, evaluate_total]
  split
  · exact satInc_mono hle hfits
  · exact hle.trans (le_satInc _ _)

theorem Inv.evaluate {s : State} (h : Inv s) (c0 c1 : Byte) (p : List Byte) : Inv (evaluate c0 c1 p s) := by
  obtain ⟨hcfg, -, hpbuf, -⟩ := evaluate_frame c0 c1 p s
  have hupdate := evaluate_eq_update c0 c1 p s
  refine inv_of_idle (.inl (by rw [hupdate])) (hcfg ▸ h.cfgLegal) (by rw [hupdate]) (hpbuf ▸ h.pbufCanonical) ?_
    (evaluate_valid_le_total h.validLeTotal h.totalFits) ?_
  · rw [hpbuf, hcfg]; exact h.pbufCells
  · rw [evaluate_total, hcfg]; exact satInc_le_max h.totalFits

/-! ### Every step keeps the invariant -/

/-- A choice between two states that are idle. -/
theorem idle_ite {s : State} {q : Prop} [Decidable q] {x : BitVec 3} (hx : x = St.readSync ∨ x = St.readLength) :
    State.idle { s with st := if q then x else St.searchSync } := by
  by_cases h : q
  · rw [if_pos h]; exact hx.elim (fun h => .inr (.inl h)) (fun h => .inr (.inr (.inl h)))
  · rw [if_neg h]; exact .inl rfl

theorem exec_dispatch_keeps_inv {s t : State} {tok : Token} (h : Inv s) (hexec : exec (s.dispatch tok) s = .next t) : Inv t := by
  obtain ⟨hst, -, rfl⟩ | ⟨hst, -, rfl⟩ | ⟨hst, -, -, rfl⟩ | ⟨hst, -, -, rfl⟩ | ⟨hst, -, hpacket⟩ | ⟨hst, -, hcheck⟩ |
    ⟨-, -, -, -, rfl⟩ | ⟨hst, rfl⟩ := exec_dispatch_cases hexec
  · exact h.to_idle (idle_ite (.inl rfl)) (h.idx_of_idle (.inl hst)) rfl
  · exact h.to_idle (idle_ite (.inr rfl)) (h.idx_of_idle (.inr (.inl hst))) rfl
  · exact h.open_packet
  · exact h.to_idle (.inl rfl) (h.idx_of_idle (.inr (.inr (.inl hst)))) rfl
  · obtain ⟨hmore, rfl⟩ | ⟨hlast, id, hid, rfl⟩ := execByteReadPacket_next hpacket
    · exact h.packet_more hst hmore _
    · exact h.packet_last hst hlast hid
  · obtain ⟨-, rfl⟩ | ⟨-, c0, p, -, -, rfl⟩ := execByteReadChecksum_next hcheck
    · exact h.checksum_first hst _
    · exact h.evaluate c0 _ p
  · exact h.to_idle (.inr (.inr (.inr rfl))) rfl rfl
  · exact h

/-- Settles O33: waiting changes nothing the invariant speaks of, a reset establishes it anew, and every token's meaning keeps it
(`exec_dispatch_keeps_inv`, one case per row). -/
theorem everyStepKeepsTheInvariant : Obligations.EveryStepKeepsTheInvariant := by
  intro s t hinv h
  obtain ⟨-, -, rfl⟩ | ⟨rest, -, -, rfl⟩ | ⟨c, held, rest, hc, -, rfl⟩ | ⟨tok, rest, -, -, hexec⟩ := step_cases h
  · exact hinv
  · exact hinv.with_input rest
  · exact resetMeetsTheInvariant c rest hc
  · exact exec_dispatch_keeps_inv (s := { s with input := rest }) (hinv.with_input rest) hexec

/-- The invariant holds of every state a run reaches. -/
theorem inv_of_reachable {s : State} (h : Reachable s) : Inv s := by
  induction h with
  | reset cfg moves hc => exact resetMeetsTheInvariant cfg moves hc
  | step s t _ hstep ih => exact everyStepKeepsTheInvariant s t ih hstep

/-! ### Under the invariant no step faults (R110) -/

/-- The id cell is written when the last payload byte has been stored. -/
theorem Inv.packetCondition_ne_illegalState {s : State} (h : Inv s) (hst : s.st = St.readPacket) (d : Byte) :
    packetCondition d s ≠ .illegalState := by
  obtain ⟨-, -, hwritten⟩ := h.packet_store hst d
  obtain ⟨id, hid⟩ := Option.isSome_iff_exists.1 (hwritten 0 (Nat.succ_pos _))
  obtain hmore | hlast : s.idx.toNat + 1 < s.cfg.plen ∨ s.idx.toNat + 1 = s.cfg.plen := by
    have := h.idxPacket hst
    omega
  · rw [packetCondition_more hmore]; exact nofun
  · rw [packetCondition_last hlast hid]; split <;> exact nofun

/-- The held byte and the payload are written when the second checksum byte comes. -/
theorem Inv.checksumCondition_ne_illegalState {s : State} (h : Inv s) (hst : s.st = St.readChecksum) (d : Byte) :
    checksumCondition d s ≠ .illegalState := by
  by_cases hzero : s.idx = 0#8
  · rw [checksumCondition_first hzero]; exact nofun
  · have hone := idx_eq_one_of_checksumInRange (h.idxChecksum hst) hzero
    obtain ⟨c0, hc0⟩ := Option.isSome_iff_exists.1 (h.c0Written hst hone)
    obtain ⟨p, hp⟩ := Memory.readRange_isSome s.pbuf 0 s.cfg.plen (by simpa using h.payloadWritten hst)
    exact Machine.checksumCondition_ne_illegalState hone hc0 hp

theorem Inv.condition_dispatch_ne_illegalState {s : State} (h : Inv s) (tok : Token) :
    condition (s.dispatch tok) s ≠ .illegalState := by
  obtain ⟨hnotWrite, hnotPrint⟩ := h.stLatched
  rcases st_cases s.st with hst | hst | hst | hst | hst | hst | hst | hst
  case inr.inr.inr.inr.inr.inl => exact absurd hst hnotWrite
  case inr.inr.inr.inr.inr.inr.inl => exact absurd hst hnotPrint
  case inr.inr.inr.inr.inr.inr.inr => rw [dispatch_exiting hst]; exact nofun
  all_goals rcases kind_cases (Token.k tok) with hk | hk
  · rw [dispatch_searchSync_byte hst hk]; exact nofun
  · rw [dispatch_searchSync_eoi hst hk]; exact nofun
  · rw [dispatch_readSync_byte hst hk, condition]; split <;> exact nofun
  · rw [dispatch_readSync_eoi hst hk]; exact nofun
  · rw [dispatch_readLength_byte hst hk, condition]; split <;> exact nofun
  · rw [dispatch_readLength_eoi hst hk]; exact nofun
  · rw [dispatch_readPacket_byte hst hk]; exact h.packetCondition_ne_illegalState hst _
  · rw [dispatch_readPacket_eoi hst hk, condition, if_pos (h.idxPacket hst)]; exact nofun
  · rw [dispatch_readChecksum_byte hst hk]; exact h.checksumCondition_ne_illegalState hst _
  · rw [dispatch_readChecksum_eoi hst hk, condition, if_pos (h.idxChecksum hst)]; exact nofun

/-- Under the invariant every token's meaning completes. -/
theorem Inv.exec_dispatch_next {s : State} (h : Inv s) (tok : Token) : ∃ t, exec (s.dispatch tok) s = .next t :=
  exec_next_of_condition (h.condition_dispatch_ne_illegalState tok)

/-- Under the invariant a step completes, or is a reset into an illegal configuration. -/
theorem Inv.step_next_or_refused {s : State} (h : Inv s) :
    (∃ t, step s = .next t) ∨
      ∃ cfg held rest, s.input = .reset cfg held :: rest ∧ cfg.wf = false ∧ step s = .refused .illegalConfiguration := by
  cases hin : s.input with
  | nil => exact .inl ⟨_, step_nil h.cfgLegal hin⟩
  | cons m rest =>
    cases m with
    | pause => exact .inl ⟨_, step_pause h.cfgLegal hin⟩
    | present tok =>
      rw [step_present h.cfgLegal hin]
      exact .inl ((h.with_input rest).exec_dispatch_next tok)
    | reset cfg held =>
      cases hc : cfg.wf with
      | true => exact .inl ⟨_, step_reset hc hin⟩
      | false => exact .inr ⟨cfg, held, rest, rfl, hc, step_reset_refused hc hin⟩

/-- Settles O34: no token's condition is code 7 under the invariant (`Inv.condition_dispatch_ne_illegalState`), and every reachable state
meets it. -/
theorem invariantStatesNeverFault : Obligations.InvariantStatesNeverFault := by
  refine ⟨fun s h => h.step_next_or_refused, fun s hreach => ?_⟩
  have hinv := inv_of_reachable hreach
  refine ⟨hinv, fun f => ?_⟩
  obtain ⟨t, h⟩ | ⟨_, _, _, -, -, h⟩ := hinv.step_next_or_refused <;> rw [h] <;> exact nofun

/-! ### The reserved encodings (R22) -/

/-- The encodings that a rule may write to `st` (R22). -/
def latchedStates : List (BitVec 3) :=
  [St.searchSync, St.readSync, St.readLength, St.readPacket, St.readChecksum, St.exiting]

theorem ite_mem_latchedStates {q : Prop} [Decidable q] {x y : BitVec 3} (hx : x ∈ latchedStates) (hy : y ∈ latchedStates) :
    (if q then x else y) ∈ latchedStates := by
  split
  · exact hx
  · exact hy

theorem exec_dispatch_st {s t : State} {tok : Token} (hexec : exec (s.dispatch tok) s = .next t) :
    t.st = s.st ∨ t.st ∈ latchedStates := by
  obtain ⟨-, -, rfl⟩ | ⟨-, -, rfl⟩ | ⟨-, -, -, rfl⟩ | ⟨-, -, -, rfl⟩ | ⟨-, -, hpacket⟩ | ⟨-, -, hcheck⟩ | ⟨-, -, -, -, rfl⟩ |
    ⟨-, rfl⟩ := exec_dispatch_cases hexec
  · exact .inr (ite_mem_latchedStates (by decide) (by decide))
  · exact .inr (ite_mem_latchedStates (by decide) (by decide))
  · exact .inr (show St.readPacket ∈ latchedStates by decide)
  · exact .inr (show St.searchSync ∈ latchedStates by decide)
  · obtain ⟨-, rfl⟩ | ⟨-, id, -, rfl⟩ := execByteReadPacket_next hpacket
    · exact .inl rfl
    · exact .inr (ite_mem_latchedStates (by decide) (by decide))
  · obtain ⟨-, rfl⟩ | ⟨-, c0, p, -, -, rfl⟩ := execByteReadChecksum_next hcheck
    · exact .inl rfl
    · rw [evaluate_eq_update]
      exact .inr (show St.searchSync ∈ latchedStates by decide)
  · exact .inr (show St.exiting ∈ latchedStates by decide)
  · exact .inl rfl

/-- Settles O31: every rule writes one of `latchedStates` (`exec_dispatch_st`), the invariant excludes the two others from reachable
states, and in these a token is a row that faults. -/
theorem reservedStatesNeverLatched : Obligations.ReservedStatesNeverLatched := by
  refine ⟨fun s t h => ?_, fun s hreach => (inv_of_reachable hreach).stLatched, fun s tok rest hc hin hst => ?_⟩
  · obtain ⟨-, -, rfl⟩ | ⟨rest, -, -, rfl⟩ | ⟨c, held, rest, -, -, rfl⟩ | ⟨tok, rest, -, -, hexec⟩ := step_cases h
    · exact .inl rfl
    · exact .inl rfl
    · exact .inr (show St.searchSync ∈ latchedStates by decide)
    · exact exec_dispatch_st (s := { s with input := rest }) hexec
  · rw [step_present hc hin]
    obtain hst | hst := hst
    · rw [dispatch_st5 hst]; rfl
    · rw [dispatch_st6 hst]; rfl

end Sys2Proof.Machine
end

section
/-! What a step emits (R53, R106, R108), and the events of a run from reset (R112, R114, R183, R189). -/

namespace Sys2Proof.Machine

/-! ### End of input (R108) -/

/-- The subtraction of R108 is that of integers modulo `2^CNT_W`. -/
theorem countDiff_eq_emod (cntW t v : Nat) : (countDiff cntW t v : Int) = ((t : Int) - (v : Int)) % (2 : Int) ^ cntW := by
  have hsub : BitVec.ofNat cntW t - BitVec.ofNat cntW v = BitVec.ofInt cntW ((t : Int) - (v : Int)) := by
    rw [Int.sub_eq_add_neg, BitVec.ofInt_add, BitVec.ofInt_neg, BitVec.ofInt_natCast, BitVec.ofInt_natCast, BitVec.sub_eq_add_neg]
  have hpow : ((2 ^ cntW : Nat) : Int) = (2 : Int) ^ cntW := by norm_cast
  rw [countDiff, hsub, BitVec.toNat_ofInt, hpow, Int.toNat_of_nonneg (Int.emod_nonneg _ (by positivity))]

/-- The rows of an EOI mask out its data bits. -/
theorem dispatchKey_eoi_and_head (st : BitVec 3) (d : Byte) :
    dispatchKey st (Token.eoiWith d) &&& 0xF00#12 = dispatchKey st Token.eoi := by
  rw [dispatchKey_and_head, Token.eoiWith_k, Token.eoi, Token.eoiWith]

/-- The five EOI rows (R63). -/
def eoiRows (d : Byte) : List Instr := [.eoiSearchSync d, .eoiReadSync d, .eoiReadLength d, .eoiReadPacket d, .eoiReadChecksum d]

theorem encode_eoi_and_head {i : Instr} {d : Byte} (hi : i ∈ eoiRows d) :
    encode i &&& 0xF00#12 ∈ [0x100#12, 0x300#12, 0x500#12, 0x700#12, 0x900#12] := by
  have hmem (st : BitVec 3) (hst : st ∈ [0#3, 1#3, 2#3, 3#3, 4#3]) :
      dispatchKey st (Token.eoiWith d) &&& 0xF00#12 ∈ [0x100#12, 0x300#12, 0x500#12, 0x700#12, 0x900#12] := by
    rw [dispatchKey_eoi_and_head]
    revert st; decide
  simp only [eoiRows, List.mem_cons, List.not_mem_nil, or_false] at hi
  obtain rfl | rfl | rfl | rfl | rfl := hi
  · exact hmem 0#3 (by decide)
  · exact hmem 1#3 (by decide)
  · exact hmem 2#3 (by decide)
  · exact hmem 3#3 (by decide)
  · exact hmem 4#3 (by decide)

/-- With `idx` in the range of its state an EOI prints the summary. -/
theorem exec_eoi_inRange {i : Instr} {d : Byte} {s : State} (hi : i ∈ eoiRows d)
    (hp : i = .eoiReadPacket d → s.packetInRange) (hk : i = .eoiReadChecksum d → s.checksumInRange) :
    condition i s = .endOfInput ∧ exec i s = .next s.printStats := by
  simp only [eoiRows, List.mem_cons, List.not_mem_nil, or_false] at hi
  obtain rfl | rfl | rfl | rfl | rfl := hi
  · exact ⟨rfl, rfl⟩
  · exact ⟨rfl, rfl⟩
  · exact ⟨rfl, rfl⟩
  · exact ⟨if_pos (hp rfl), execEoiReadPacket_inRange (hp rfl)⟩
  · exact ⟨if_pos (hk rfl), execEoiReadChecksum_inRange (hk rfl)⟩

/-- Settles O20: in range the row is `exec_eoi_inRange`, whose third value is `countDiff` (`countDiff_eq_emod`, `countDiff_eq`); out of
range its condition is code 7, under which it faults. -/
theorem endOfInputPrintsStats : Obligations.EndOfInputPrintsStats := by
  intro d s i hi
  refine ⟨encode_eoi_and_head hi, fun hp hk => ?_, fun hout => ?_⟩
  · obtain ⟨hcond, hexec⟩ := exec_eoi_inRange (s := s) hi hp hk
    exact ⟨hcond, countDiff s.cfg.cntW s.total s.valid, hexec, countDiff_eq_emod _ _ _, countDiff_eq⟩
  · have hcond : condition i s = .illegalState := by
      obtain ⟨rfl, hidx⟩ | ⟨rfl, hidx⟩ := hout
      · exact if_neg (Nat.not_lt.2 hidx)
      · exact if_neg (Nat.not_le.2 hidx)
    exact ⟨hcond, exec_fault_of_condition hcond⟩

/-! ### What a step emits (R53) -/

/-- `Emits s t`: from `s` to `t` the block emits nothing, an accepted record (R106), or the summary at the end of input (R108). Beside the
events it says what the step does to the header flag, whether the run has ended, and that the counters are then final. -/
inductive Emits (s t : State) : Prop
  | nothing (hevents : t.events = s.events) (hhdr : t.hdrDone = s.hdrDone) (hst : t.st = St.exiting ↔ s.st = St.exiting)
      (hfinal : s.st = St.exiting → t.total = s.total ∧ t.valid = s.valid)
  | record (r : Record) (hevents : t.events = s.events ++ (if s.hdrDone then [.record r] else [.hdr, .record r]))
      (hhdr : t.hdrDone = true) (hs : s.st ≠ St.exiting) (ht : t.st ≠ St.exiting)
  | stats (hevents : t.events = s.events ++ [.stats s.total s.valid (countDiff s.cfg.cntW s.total s.valid)])
      (hhdr : t.hdrDone = s.hdrDone) (hs : s.st ≠ St.exiting) (ht : t.st = St.exiting) (htotal : t.total = s.total)
      (hvalid : t.valid = s.valid)

/-- A silent step between states before the end of the run. -/
theorem Emits.nothing_of_ne {s t : State} (hs : s.st ≠ St.exiting) (ht : t.st ≠ St.exiting) (hevents : t.events = s.events)
    (hhdr : t.hdrDone = s.hdrDone) : Emits s t :=
  .nothing hevents hhdr (iff_of_false ht hs) fun h => absurd h hs

theorem ite_ne_exiting {q : Prop} [Decidable q] {x y : BitVec 3} (hx : x ≠ St.exiting) (hy : y ≠ St.exiting) :
    (if q then x else y) ≠ St.exiting := by
  split
  · exact hx
  · exact hy

theorem evaluate_emits (c0 c1 : Byte) (p : List Byte) {s : State} (hs : s.st ≠ St.exiting) : Emits s (evaluate c0 c1 p s) := by
  obtain ⟨-, h⟩ | ⟨-, -, h⟩ | ⟨-, r, -, h⟩ := evaluate_cases c0 c1 p s <;> rw [h]
  · exact .nothing_of_ne hs nofun rfl rfl
  · exact .nothing_of_ne hs nofun rfl rfl
  · exact .record r rfl rfl hs nofun

theorem exec_dispatch_emits {s t : State} {tok : Token} (hexec : exec (s.dispatch tok) s = .next t) : Emits s t := by
  have hne {x : BitVec 3} (hst : s.st = x) (hx : x ≠ St.exiting) : s.st ≠ St.exiting := hst ▸ hx
  obtain ⟨hst, -, rfl⟩ | ⟨hst, -, rfl⟩ | ⟨hst, -, -, rfl⟩ | ⟨hst, -, -, rfl⟩ | ⟨hst, -, hpacket⟩ | ⟨hst, -, hcheck⟩ |
    ⟨hactive, -, -, -, rfl⟩ | ⟨-, rfl⟩ := exec_dispatch_cases hexec
  · exact .nothing_of_ne (hne hst (by decide)) (ite_ne_exiting (by decide) (by decide)) rfl rfl
  · exact .nothing_of_ne (hne hst (by decide)) (ite_ne_exiting (by decide) (by decide)) rfl rfl
  · exact .nothing_of_ne (hne hst (by decide)) nofun rfl rfl
  · exact .nothing_of_ne (hne hst (by decide)) nofun rfl rfl
  · have hs := hne hst (by decide)
    obtain ⟨-, rfl⟩ | ⟨-, id, -, rfl⟩ := execByteReadPacket_next hpacket
    · exact .nothing_of_ne hs hs rfl rfl
    · exact .nothing_of_ne hs (ite_ne_exiting (by decide) (by decide)) rfl rfl
  · have hs := hne hst (by decide)
    obtain ⟨-, rfl⟩ | ⟨-, c0, p, -, -, rfl⟩ := execByteReadChecksum_next hcheck
    · exact .nothing_of_ne hs hs rfl rfl
    · exact evaluate_emits c0 _ p hs
  · have hs : s.st ≠ St.exiting := by rintro hst; rw [hst] at hactive; exact absurd hactive (by decide)
    exact .stats rfl rfl hs rfl rfl rfl
  · exact .nothing rfl rfl Iff.rfl fun _ => ⟨rfl, rfl⟩

/-- The host's moves are no part of what a step emits. -/
theorem Emits.of_with_input {s t : State} {moves : List HostMove} (h : Emits { s with input := moves } t) : Emits s t := by
  cases h with
  | nothing hevents hhdr hst hfinal => exact .nothing hevents hhdr hst hfinal
  | record r hevents hhdr hs ht => exact .record r hevents hhdr hs ht
  | stats hevents hhdr hs ht htotal hvalid => exact .stats hevents hhdr hs ht htotal hvalid

/-- Every step but a reset emits nothing, a record or the summary. -/
theorem step_emits {s t : State} (h : step s = .next t) (hnr : ∀ cfg held rest, s.input ≠ .reset cfg held :: rest) : Emits s t := by
  obtain ⟨-, -, rfl⟩ | ⟨rest, -, -, rfl⟩ | ⟨c, held, rest, -, hin, -⟩ | ⟨tok, rest, -, -, hexec⟩ := step_cases h
  · exact .nothing rfl rfl Iff.rfl fun _ => ⟨rfl, rfl⟩
  · exact .nothing rfl rfl Iff.rfl fun _ => ⟨rfl, rfl⟩
  · exact absurd hin (hnr c held rest)
  · exact (exec_dispatch_emits (s := { s with input := rest }) hexec).of_with_input

/-- Settles O30: the three kinds of `Emits`; a record comes with `HDR` exactly when the flag was not set. -/
theorem eventsAreAppendedInOrder : Obligations.EventsAreAppendedInOrder := by
  intro s t h hnr
  cases step_emits h hnr with
  | nothing hevents => exact .inl hevents
  | record r hevents hhdr =>
    cases hs : s.hdrDone <;> rw [hs] at hevents
    · exact .inr (.inr ⟨rfl, hhdr, r, hevents⟩)
    · exact .inr (.inl ⟨_, hevents⟩)
  | stats hevents => exact .inr (.inl ⟨_, hevents⟩)

/-! ### The events of a run (R112, R114, R189) -/

/-- The events of the accepted records `rs`: `HDR` before the first of them. -/
def recordEvents (rs : List Record) : List Event := if rs = [] then [] else .hdr :: rs.map .record

/-- One more record brings `HDR` with it when it is the first. -/
theorem recordEvents_append (rs : List Record) (r : Record) :
    recordEvents (rs ++ [r]) = recordEvents rs ++ (if !rs.isEmpty then [.record r] else [.hdr, .record r]) := by
  cases rs <;> simp [recordEvents]

theorem stats_not_mem_recordEvents (rs : List Record) (t v i : Nat) : Event.stats t v i ∉ recordEvents rs := by
  unfold recordEvents
  split <;> simp

/-- A step from a state of a run keeps the shape of its events. -/
theorem EventShape.step {s t : State} (hshape : EventShape s) (hinv : Inv s) (hemits : Emits s t) : EventShape t := by
  obtain ⟨rs, hevents, hhdr⟩ := hshape
  change s.events = recordEvents rs ++ _ at hevents
  cases hemits with
  | nothing hev hflag hst hfinal =>
    refine ⟨rs, ?_, hflag.trans hhdr⟩
    rw [hev, hevents]
    by_cases hs : s.st = St.exiting
    · obtain ⟨htotal, hvalid⟩ := hfinal hs
      rw [if_pos hs, if_pos (hst.2 hs), htotal, hvalid]; rfl
    · rw [if_neg hs, if_neg (mt hst.1 hs)]; rfl
  | record r hev hflag hs ht =>
    refine ⟨rs ++ [r], ?_, by simp [hflag]⟩
    rw [if_neg hs, List.append_nil] at hevents
    rw [hev, hevents, hhdr, if_neg ht, List.append_nil]
    exact (recordEvents_append rs r).symm
  | stats hev hflag hs ht htotal hvalid =>
    refine ⟨rs, ?_, hflag.trans hhdr⟩
    have hdiff := countDiff_eq hinv.validLeTotal (lt_two_pow_of_le_maxCount hinv.totalFits)
    rw [if_neg hs, List.append_nil] at hevents
    rw [hev, hevents, if_pos ht, htotal, hvalid, hdiff]; rfl

/-- Settles O36: a reset starts with no event, and every other step keeps the shape (`EventShape.step`); the invariant makes the third
value of the summary `total - valid`. -/
theorem reachableEventShape : Obligations.ReachableEventShape := by
  intro s hreach
  induction hreach with
  | reset cfg moves hc => exact ⟨[], rfl, rfl⟩
  | step s t hs h ih =>
    by_cases hnr : ∀ cfg held rest, s.input ≠ .reset cfg held :: rest
    · exact ih.step (inv_of_reachable hs) (step_emits h hnr)
    · push Not at hnr
      obtain ⟨cfg, held, rest, hin⟩ := hnr
      rw [step_next_of_reset h hin]
      exact ⟨[], rfl, rfl⟩

/-- Settles O35: the order and the range are the invariant's; a run's only summary carries the final counters and their difference
(`reachableEventShape`). -/
theorem reachableCountersInOrder : Obligations.ReachableCountersInOrder := by
  intro s hreach
  have hinv := inv_of_reachable hreach
  refine ⟨hinv.validLeTotal, lt_two_pow_of_le_maxCount hinv.totalFits, fun t v i hmem => ?_⟩
  obtain ⟨rs, hevents, -⟩ := reachableEventShape s hreach
  rw [hevents] at hmem
  obtain hmem | hmem := List.mem_append.1 hmem
  · exact absurd hmem (stats_not_mem_recordEvents rs t v i)
  · split at hmem
    · cases List.mem_singleton.1 hmem
      exact ⟨hinv.validLeTotal, rfl⟩
    · cases hmem

/-! ### End of input in a run (R42, R183) -/

/-- An EOI in an active state, with `idx` in the range of the state. -/
theorem exec_dispatch_eoi {s : State} {tok : Token} (hactive : s.st.toNat ≤ 4) (hk : Token.k tok = 1#1)
    (hpacket : s.st = St.readPacket → s.packetInRange) (hchecksum : s.st = St.readChecksum → s.checksumInRange) :
    exec (s.dispatch tok) s = .next s.printStats := by
  rcases st_cases s.st with hst | hst | hst | hst | hst | hst | hst | hst
  · rw [dispatch_searchSync_eoi hst hk]; rfl
  · rw [dispatch_readSync_eoi hst hk]; rfl
  · rw [dispatch_readLength_eoi hst hk]; rfl
  · rw [dispatch_readPacket_eoi hst hk]; exact execEoiReadPacket_inRange (hpacket hst)
  · rw [dispatch_readChecksum_eoi hst hk]; exact execEoiReadChecksum_inRange (hchecksum hst)
  all_goals exact absurd hactive (by rw [hst]; decide)

/-- The step of an EOI in an active state, with `idx` in the range of the state. -/
theorem step_eoi {s : State} {d : Byte} {rest : List HostMove} (hc : s.cfg.wf = true)
    (hin : s.input = .present (Token.eoiWith d) :: rest) (hactive : s.st.toNat ≤ 4)
    (hpacket : s.st = St.readPacket → s.packetInRange) (hchecksum : s.st = St.readChecksum → s.checksumInRange) :
    step s = .next { s with input := rest }.printStats := by
  rw [step_present hc hin]
  exact exec_dispatch_eoi (s := { s with input := rest }) hactive (Token.eoiWith_k d) hpacket hchecksum

/-- Settles O38: the EOI step is `step_eoi`, and the reset after it is `step_reset`. -/
theorem partialReadsAreDiscarded : Obligations.PartialReadsAreDiscarded := by
  intro s d cfg held rest hc hcfg hread hin
  have heoi : step s = .next { s with input := .reset cfg held :: rest }.printStats := by
    obtain ⟨hst, hidx⟩ | ⟨hst, hidx⟩ := hread
    · exact step_eoi hc hin (by rw [hst]; decide) (fun _ => hidx) (by simp [hst])
    · exact step_eoi hc hin (by rw [hst]; decide) (by simp [hst]) (fun _ => hidx)
  refine ⟨⟨_, _, steps_succ (n := 0) heoi, rfl, rfl, rfl, rfl⟩, ?_⟩
  rw [steps_succ heoi]
  exact steps_succ (n := 0) (step_reset hcfg rfl)

/-- Settles O37: the reset is `step_reset`, and the EOI after it prints counters that are 0. -/
theorem emptyInputReportsZeroes : Obligations.EmptyInputReportsZeroes := by
  intro s cfg rest hc hin
  have heoi := step_eoi (s := { State.reset with cfg := cfg, input := .present Token.eoi :: rest }) hc rfl (Nat.zero_le 4) nofun nofun
  have hzero : countDiff cfg.cntW 0 0 = 0 := countDiff_eq le_rfl (Nat.two_pow_pos _)
  refine ⟨_, (steps_succ (step_reset hc hin)).trans (steps_succ (n := 0) heoi), ?_, rfl, rfl⟩
  rw [State.printStats_events]
  exact congrArg (fun w => [Event.stats 0 0 w]) hzero

end Sys2Proof.Machine
end

section
/-! Runs of the block: what it counts (R115), and that nothing of an earlier frame survives (R113). -/

namespace Sys2Proof.Machine

/-! ### Counting candidates (R115) -/

theorem countSteps_succ {q : State → Bool} {n : Nat} {s t : State} (h : step s = .next t) :
    countSteps q (n + 1) s = (if q s then 1 else 0) + countSteps q n t := by
  simp only [countSteps, h]

theorem evaluatesNext_of_matchesNext {s : State} (h : s.matchesNext = true) : s.evaluatesNext = true := by
  cases hnone : s.secondChecksumByte with
  | none => rw [matchesNext_of_none hnone] at h; cases h
  | some d => simp [State.evaluatesNext, hnone]

/-- Below saturation one step counts the candidate it evaluates, and counts it as valid when it matches. -/
theorem step_counts {s t : State} (h : step s = .next t) (hnr : ∀ cfg held rest, s.input ≠ .reset cfg held :: rest)
    (hle : s.valid ≤ s.total) (hmax : s.total + (if s.evaluatesNext then 1 else 0) ≤ s.cfg.maxCount) :
    t.total = s.total + (if s.evaluatesNext then 1 else 0) ∧ t.valid = s.valid + (if s.matchesNext then 1 else 0) ∧
      (if s.matchesNext then 1 else 0) ≤ (if s.evaluatesNext then 1 else 0) := by
  obtain ⟨htotal, hvalid⟩ := (countersChangeOnlyAtAnEvaluation s t h).2 hnr
  cases hev : s.evaluatesNext with
  | false =>
    have hma : s.matchesNext = false := Bool.eq_false_of_not_eq_true fun h => by simp [evaluatesNext_of_matchesNext h] at hev
    simp [htotal, hvalid, hev, hma]
  | true =>
    simp only [hev, if_true] at hmax
    have hincT : satInc s.cfg s.total = s.total + 1 := satInc_of_lt (by omega)
    have hincV : satInc s.cfg s.valid = s.valid + 1 := satInc_of_lt (by omega)
    cases hma : s.matchesNext <;> simp [htotal, hvalid, hev, hma, hincT, hincV]

theorem input_ne_reset {s : State} (hnr : ∀ m ∈ s.input, m.isReset = false) (cfg : Config) (held : Option Token)
    (rest : List HostMove) : s.input ≠ .reset cfg held :: rest := by
  intro hin
  have hreset : (HostMove.reset cfg held).isReset = false := hnr _ (by simp [hin])
  cases hreset

/-- Settles O39: by induction on the number of steps, each of which counts exactly (`step_counts`) and keeps `valid` at or below
`total`. -/
theorem candidatesAreCountedOnce : Obligations.CandidatesAreCountedOnce := by
  intro n
  induction n with
  | zero => intro s t h _ _ _; cases h; simp [countSteps]
  | succ n ih =>
    intro s t h hnr hle hmax
    obtain ⟨u, hstep, hrest⟩ := steps_succ_next h
    simp only [countSteps_succ hstep] at hmax ⊢
    obtain ⟨htotal, hvalid, hcount⟩ := step_counts hstep (input_ne_reset hnr) hle (by omega)
    have hcfg := step_keeps_cfg hstep (input_ne_reset hnr)
    have hinput := eachStepTakesOneMove s u hstep
    obtain ⟨ht, hv, hc⟩ := ih u t hrest (fun m hm => hnr m (List.mem_of_mem_tail (hinput ▸ hm))) (by omega)
      (by rw [hcfg]; omega)
    exact ⟨by omega, by omega, by omega⟩

/-! ### Nothing of an earlier frame survives (R113) -/

theorem Memory.readRange_congr {m m' : Memory} {a n : Nat} (h : ∀ k, k < n → m'.read (a + k) = m.read (a + k)) :
    m'.readRange a n = m.readRange a n := by
  induction n generalizing a with
  | zero => rfl
  | succ n ih =>
    have htail : m'.readRange (a + 1) n = m.readRange (a + 1) n := ih fun k hk => by
      have hk := h (k + 1) (by omega)
      rwa [Nat.add_comm k 1, ← Nat.add_assoc] at hk
    have hhead : m'.read a = m.read a := h 0 (Nat.succ_pos n)
    simp only [Memory.readRange, hhead, htail]

/-- Buffers that agree below `i` agree up to `i` after the same store there. -/
theorem Memory.agree_write {m m' : Memory} {i : Nat} (h : ∀ a, a < i → m'.read a = m.read a) (d : Byte) :
    ∀ a, a < i + 1 → (m'.write i d).read a = (m.write i d).read a := by
  intro a ha
  rw [Memory.read_write, Memory.read_write]
  split
  · rfl
  · exact h a (by omega)

/-- `s'` is `s` with another `idx`, buffer and `c0`, as far as the read under way has not written these yet: in READ_PACKET they agree on
`idx` and the cells below it, in READ_CHECKSUM on `idx`, the payload, and `c0` after the first byte. -/
structure SameView (s s' : State) : Prop where
  frame : s' = { s with idx := s'.idx, pbuf := s'.pbuf, c0 := s'.c0 }
  idx : s.st = St.readPacket ∨ s.st = St.readChecksum → s'.idx = s.idx
  written : s.st = St.readPacket → ∀ a, a < s.idx.toNat → s'.pbuf.read a = s.pbuf.read a
  payload : s.st = St.readChecksum → s'.payload = s.payload
  c0 : s.st = St.readChecksum → s.idx = 1#8 → s'.c0 = s.c0

theorem SameView.refl (s : State) : SameView s s := ⟨rfl, fun _ => rfl, fun _ _ _ => rfl, fun _ => rfl, fun _ _ => rfl⟩

theorem SameView.with_input {s s' : State} (h : SameView s s') (moves : List HostMove) :
    SameView { s with input := moves } { s' with input := moves } :=
  ⟨by rw [h.frame], h.idx, h.written, h.payload, h.c0⟩

/-- In an idle state no read is under way. -/
theorem State.idle.sameView {s s' : State} (hs : s.idle) (h : s' = { s with idx := s'.idx, pbuf := s'.pbuf, c0 := s'.c0 }) :
    SameView s s' :=
  ⟨h, fun hst => (hst.elim hs.ne_readPacket hs.ne_readChecksum).elim, fun hst => absurd hst hs.ne_readPacket,
    fun hst => absurd hst hs.ne_readChecksum, fun hst => absurd hst hs.ne_readChecksum⟩

/-- An evaluation reads no `idx`, buffer or `c0` beside the payload and the bytes it is given. -/
theorem evaluate_sameView (c0 c1 : Byte) (p : List Byte) (s : State) (i : BitVec 8) (m : Memory) (c : Option Byte) :
    SameView (evaluate c0 c1 p s) (evaluate c0 c1 p { s with idx := i, pbuf := m, c0 := c }) := by
  obtain ⟨hok, h⟩ | ⟨hok, hu, h⟩ | ⟨hok, r, hu, h⟩ := evaluate_cases c0 c1 p s
  · rw [h, evaluate_mismatch (s := { s with idx := i, pbuf := m, c0 := c }) hok]
    exact State.idle.sameView (.inl rfl) rfl
  · rw [h, evaluate_structural (s := { s with idx := i, pbuf := m, c0 := c }) hok hu]
    exact State.idle.sameView (.inl rfl) rfl
  · rw [h, evaluate_record (s := { s with idx := i, pbuf := m, c0 := c }) hok hu]
    exact State.idle.sameView (.inl rfl) rfl

/-- BYTE.READ_PACKET reads only the cells that the two states share. -/
theorem SameView.execByteReadPacket {s s' t : State} {d : Byte} (h : SameView s s') (hst : s.st = St.readPacket)
    (hexec : execByteReadPacket d s = .next t) : ∃ t', execByteReadPacket d s' = .next t' ∧ SameView t t' := by
  obtain ⟨i, m, c, rfl⟩ : ∃ i m c, s' = { s with idx := i, pbuf := m, c0 := c } := ⟨_, _, _, h.frame⟩
  obtain rfl : i = s.idx := h.idx (.inl hst)
  have hagree := Memory.agree_write (h.written hst) d
  obtain ⟨hmore, rfl⟩ | ⟨hlast, id, hid, rfl⟩ := execByteReadPacket_next hexec
  · refine ⟨_, execByteReadPacket_more (s := { s with pbuf := m, c0 := c }) hmore, rfl, fun _ => rfl,
      fun _ a ha => hagree a (idx_succ_toNat hmore ▸ ha), fun hk => ?_, fun hk => ?_⟩ <;>
      exact absurd (hst.symm.trans hk) (by decide)
  · have hid' : (m.write s.idx.toNat d).read 0 = some id := (hagree 0 (Nat.succ_pos _)).trans hid
    refine ⟨_, execByteReadPacket_last (s := { s with pbuf := m, c0 := c }) hlast hid', ?_⟩
    by_cases hdev : id = s.cfg.deviceId
    · simp only [if_pos hdev]
      refine ⟨rfl, fun _ => rfl, nofun, fun _ => Memory.readRange_congr fun a ha => ?_, nofun⟩
      rw [Nat.zero_add]
      exact hagree a (hlast ▸ ha)
    · simp only [if_neg hdev]
      exact State.idle.sameView (.inl rfl) rfl

/-- BYTE.READ_CHECKSUM reads only `idx`, the payload and, at the second byte, `c0`, which the two states share. -/
theorem SameView.execByteReadChecksum {s s' t : State} {d : Byte} (h : SameView s s') (hst : s.st = St.readChecksum)
    (hexec : execByteReadChecksum d s = .next t) : ∃ t', execByteReadChecksum d s' = .next t' ∧ SameView t t' := by
  obtain ⟨i, m, c, rfl⟩ : ∃ i m c, s' = { s with idx := i, pbuf := m, c0 := c } := ⟨_, _, _, h.frame⟩
  obtain rfl : i = s.idx := h.idx (.inr hst)
  obtain ⟨hidx, rfl⟩ | ⟨hidx, c0, p, hc0, hp, rfl⟩ := execByteReadChecksum_next hexec
  · refine ⟨_, execByteReadChecksum_first (s := { s with pbuf := m, c0 := c }) hidx, rfl, fun _ => rfl, fun hp => ?_,
      fun _ => h.payload hst, fun _ _ => rfl⟩
    exact absurd (hst.symm.trans hp) (by decide)
  · exact ⟨_, execByteReadChecksum_second (s := { s with pbuf := m, c0 := c }) hidx ((h.c0 hst hidx).trans hc0)
      ((h.payload hst).trans hp), evaluate_sameView c0 d p s s.idx m c⟩

theorem SameView.exec_dispatch {s s' t : State} {tok : Token} (h : SameView s s') (hexec : exec (s.dispatch tok) s = .next t) :
    ∃ t', exec (s'.dispatch tok) s' = .next t' ∧ SameView t t' := by
  have hdispatch : s'.dispatch tok = s.dispatch tok := by rw [h.frame]; rfl
  have hcases := exec_dispatch_cases hexec
  rw [hdispatch]
  obtain ⟨i, m, c, hs'⟩ : ∃ i m c, s' = { s with idx := i, pbuf := m, c0 := c } := ⟨_, _, _, h.frame⟩
  obtain ⟨hst, hk, rfl⟩ | ⟨hst, hk, rfl⟩ | ⟨hst, hk, hd, rfl⟩ | ⟨hst, hk, hd, rfl⟩ | ⟨hst, hk, hpacket⟩ | ⟨hst, hk, hcheck⟩ |
    ⟨hactive, hk, hpacket, hchecksum, rfl⟩ | ⟨hst, rfl⟩ := hcases
  · rw [dispatch_searchSync_byte hst hk, hs']
    exact ⟨_, execByteSearchSync_eq _ _, State.idle.sameView (idle_ite (.inl rfl)) rfl⟩
  · rw [dispatch_readSync_byte hst hk, hs']
    exact ⟨_, execByteReadSync_eq _ _, State.idle.sameView (idle_ite (.inr rfl)) rfl⟩
  · rw [dispatch_readLength_byte hst hk, hs']
    exact ⟨_, execByteReadLength_match hd, rfl, fun _ => rfl, fun _ a ha => absurd ha (Nat.not_lt_zero a), nofun, nofun⟩
  · rw [dispatch_readLength_byte hst hk, hs']
    exact ⟨_, execByteReadLength_mismatch hd, State.idle.sameView (.inl rfl) rfl⟩
  · rw [dispatch_readPacket_byte hst hk]
    exact h.execByteReadPacket hst hpacket
  · rw [dispatch_readChecksum_byte hst hk]
    exact h.execByteReadChecksum hst hcheck
  · refine ⟨s'.printStats, ?_, State.idle.sameView (.inr (.inr (.inr rfl))) (by rw [hs']; rfl)⟩
    rw [← hdispatch]
    have hsame := h.idx
    subst hs'
    exact exec_dispatch_eoi (s := { s with idx := i, pbuf := m, c0 := c }) hactive hk
      (fun hst => (congrArg BitVec.toNat (hsame (.inl hst))).trans_lt (hpacket hst))
      (fun hst => (congrArg BitVec.toNat (hsame (.inr hst))).trans_le (hchecksum hst))
  · rw [dispatch_exiting hst]
    exact ⟨s', rfl, h⟩

theorem SameView.step {s s' t : State} (h : SameView s s') (hstep : step s = .next t) :
    ∃ t', step s' = .next t' ∧ SameView t t' := by
  have hcfg : s'.cfg = s.cfg := by rw [h.frame]
  have hinput : s'.input = s.input := by rw [h.frame]
  obtain ⟨hc, hin, rfl⟩ | ⟨rest, hc, hin, rfl⟩ | ⟨c, held, rest, hc, hin, rfl⟩ | ⟨tok, rest, hc, hin, hexec⟩ := step_cases hstep
  · exact ⟨s', step_nil (hcfg ▸ hc) (hinput.trans hin), h⟩
  · exact ⟨_, step_pause (hcfg ▸ hc) (hinput.trans hin), h.with_input rest⟩
  · exact ⟨_, step_reset hc (hinput.trans hin), .refl _⟩
  · rw [step_present (hcfg ▸ hc) (hinput.trans hin)]
    exact (h.with_input rest).exec_dispatch hexec

theorem SameView.steps {n : Nat} {s s' t : State} (h : SameView s s') (hsteps : steps n s = .next t) :
    ∃ t', steps n s' = .next t' ∧ SameView t t' := by
  induction n generalizing s s' with
  | zero => cases hsteps; exact ⟨s', rfl, h⟩
  | succ n ih =>
    obtain ⟨u, hstep, hrest⟩ := steps_succ_next hsteps
    obtain ⟨u', hstep', hu⟩ := h.step hstep
    rw [steps_succ hstep']
    exact ih hu hrest

/-- Settles O40: the two runs keep `SameView` step by step (`SameView.steps`), which in SEARCH_SYNC asks nothing of `idx`, the buffer and
`c0`. -/
theorem noPartialFrameStateSurvives : Obligations.NoPartialFrameStateSurvives := by
  intro n s t i m c hst hsteps
  have hview : SameView s { s with idx := i, pbuf := m, c0 := c } := State.idle.sameView (.inl hst) rfl
  obtain ⟨t', hsteps', h⟩ := hview.steps hsteps
  have hframe := h.frame
  exact ⟨t', hsteps', by rw [hframe], by rw [hframe], by rw [hframe], by rw [hframe], by rw [hframe], by rw [hframe], h.idx⟩

end Sys2Proof.Machine
end

section
/-! Frames on the wire: the bytes it takes to lose or to accept one (R116 to R118). -/

namespace Sys2Proof.Machine

/-! ### The head of a frame (R101 to R103, R116) -/

/-- Two sync bytes from SEARCH_SYNC lead to READ_LENGTH. -/
theorem steps_fed_sync_sync {s : State} {bs : List Byte} {rest : List HostMove} (hc : s.cfg.wf = true) (hst : s.st = St.searchSync) :
    steps 2 (s.fed (s.cfg.sync :: s.cfg.sync :: bs) rest) = .next ({ s with st := St.readLength }.fed bs rest) := by
  rw [steps_succ (step_fed_searchSync hc hst), if_pos rfl,
    steps_succ (step_fed_readSync (s := { s with st := St.readSync }) hc rfl), if_pos rfl, steps]

/-- With a third sync byte, which is no length byte, the frame is lost. -/
theorem steps_fed_sync_sync_sync {s : State} {bs : List Byte} {rest : List HostMove} (hc : s.cfg.wf = true)
    (hst : s.st = St.searchSync) (hne : s.cfg.sync ≠ s.cfg.lenConst) :
    steps 3 (s.fed (s.cfg.sync :: s.cfg.sync :: s.cfg.sync :: bs) rest) = .next (s.fed bs rest) := by
  refine (steps_add (n := 1) (steps_fed_sync_sync hc hst)).trans ?_
  rw [steps_succ (step_fed_readLength_mismatch (s := { s with st := St.readLength }) hc rfl hne), steps, ← hst]

/-- The head of a frame opens a payload. -/
theorem steps_fed_frameHead {s : State} {bs : List Byte} {rest : List HostMove} (hc : s.cfg.wf = true) (hst : s.st = St.searchSync) :
    steps 3 (s.fed (s.cfg.sync :: s.cfg.sync :: s.cfg.lenConst :: bs) rest) =
      .next ({ s with idx := 0#8, st := St.readPacket }.fed bs rest) := by
  refine (steps_add (n := 1) (steps_fed_sync_sync hc hst)).trans ?_
  rw [steps_succ (step_fed_readLength_match (s := { s with st := St.readLength }) hc rfl), steps]

/-- Settles O41: the third sync byte is a length mismatch (`steps_fed_sync_sync_sync`), and the length byte after it is noise in
SEARCH_SYNC. -/
theorem thirdSyncByteLosesTheFrame : Obligations.ThirdSyncByteLosesTheFrame := by
  intro s rest hc hst hne
  refine ⟨steps_fed_sync_sync_sync hc hst hne, (steps_add (n := 1) (steps_fed_sync_sync_sync hc hst hne)).trans ?_⟩
  rw [steps_succ (step_fed_searchSync hc hst), if_neg (Ne.symm hne), ← hst]
  rfl

/-! ### The payload (R104) -/

/-- The buffer holds the first `k` bytes of `p`. -/
def Memory.HoldsFirst (m : Memory) (p : List Byte) (k : Nat) : Prop := ∀ a, a < k → m.read a = p[a]?

/-- Storing the next byte of `p`. -/
theorem Memory.HoldsFirst.write {m : Memory} {p : List Byte} {k : Nat} (h : m.HoldsFirst p k) (hk : k < p.length) :
    (m.write k p[k]).HoldsFirst p (k + 1) := by
  intro a ha
  rw [Memory.read_write]
  split
  · rename_i heq
    rw [heq, List.getElem?_eq_getElem hk]
  · exact h a (by omega)

theorem State.payload_of_holdsFirst {s : State} {p : List Byte} (hlen : p.length = s.cfg.plen)
    (h : s.pbuf.HoldsFirst p s.cfg.plen) : s.payload = some p :=
  (s.payload_eq_some_iff p).2 ⟨hlen, h⟩

/-- Every offset of the payload fits `idx`. -/
theorem toNat_ofNat_of_lt_plen {c : Config} {k : Nat} (h : k < c.plen) : (BitVec.ofNat 8 k).toNat = k := by
  have := c.plen_le
  rw [BitVec.toNat_ofNat, Nat.mod_eq_of_lt (by omega)]

section Payload

variable {s : State} {p cs : List Byte} {rest : List HostMove} (hc : s.cfg.wf = true) (hst : s.st = St.readPacket)
  (hidx : s.idx = 0#8) (hlen : p.length = s.cfg.plen)

include hc hst hidx hlen

/-- Until the last payload byte the block stays in READ_PACKET and has stored the bytes consumed. -/
theorem steps_fed_packet {k : Nat} (hk : k < s.cfg.plen) :
    ∃ m, steps k (s.fed (p ++ cs) rest) = .next ({ s with pbuf := m, idx := BitVec.ofNat 8 k }.fed (p.drop k ++ cs) rest) ∧
      m.HoldsFirst p k := by
  induction k with
  | zero => exact ⟨s.pbuf, by rw [← hidx]; rfl, nofun⟩
  | succ k ih =>
    obtain ⟨m, hrun, hm⟩ := ih (by omega)
    have hkp : k < p.length := by omega
    have hk8 : (BitVec.ofNat 8 k).toNat = k := toNat_ofNat_of_lt_plen (c := s.cfg) (by omega)
    refine ⟨m.write k p[k], ?_, hm.write hkp⟩
    rw [steps_add (n := 1) hrun, List.drop_eq_getElem_cons hkp, List.cons_append,
      steps_succ (step_fed_readPacket_more (s := { s with pbuf := m, idx := BitVec.ofNat 8 k }) hc hst (by rw [hk8]; exact hk))]
    simp only [steps, hk8, BitVec.ofNat_add]

/-- After the last payload byte the buffer holds the payload, and the device id has chosen the state. -/
theorem steps_fed_payload :
    ∃ m, steps s.cfg.plen (s.fed (p ++ cs) rest) =
        .next ({ s with
          pbuf := m
          idx := 0#8
          st := if p[0]? = some s.cfg.deviceId then St.readChecksum else St.searchSync }.fed cs rest) ∧
      m.HoldsFirst p s.cfg.plen := by
  have hpos := s.cfg.plen_pos hc
  obtain ⟨k, hk⟩ : ∃ k, s.cfg.plen = k + 1 := ⟨s.cfg.plen - 1, by omega⟩
  obtain ⟨m, hrun, hm⟩ := steps_fed_packet (cs := cs) (rest := rest) hc hst hidx hlen (k := k) (by omega)
  have hkp : k < p.length := by omega
  have hk8 : (BitVec.ofNat 8 k).toNat = k := toNat_ofNat_of_lt_plen (c := s.cfg) (by omega)
  have hm' := hm.write hkp
  have hid : (m.write (BitVec.ofNat 8 k).toNat p[k]).read 0 = some p[0] := by
    rw [hk8, hm' 0 (Nat.succ_pos k), List.getElem?_eq_getElem (by omega)]
  refine ⟨m.write k p[k], ?_, hk ▸ hm'⟩
  rw [hk, steps_add (n := 1) hrun, List.drop_eq_getElem_cons hkp, List.drop_eq_nil_of_le (by omega), List.singleton_append,
    steps_succ (step_fed_readPacket_last (s := { s with pbuf := m, idx := BitVec.ofNat 8 k }) hc hst (by rw [hk8, hk]) hid)]
  simp only [steps, hk8, List.getElem?_eq_getElem (show 0 < p.length by omega), Option.some.injEq]

end Payload

/-- Settles O42: the payload is consumed as `steps_fed_payload` says, and before its last byte the block is in READ_PACKET
(`steps_fed_packet`). -/
theorem wrongDeviceIdConsumesThePayload : Obligations.WrongDeviceIdConsumesThePayload := by
  intro s id ds rest hc hst hidx hlen hid
  have happ : id :: ds = (id :: ds) ++ [] := (List.append_nil _).symm
  rw [happ]
  refine ⟨?_, fun k hk => ?_⟩
  · obtain ⟨m, hrun, -⟩ := steps_fed_payload (p := id :: ds) (cs := []) (rest := rest) hc hst hidx hlen
    rw [if_neg (by simpa using hid)] at hrun
    exact ⟨_, hrun, rfl, rfl, rfl, rfl, rfl, rfl⟩
  · obtain ⟨m, hrun, -⟩ := steps_fed_packet (p := id :: ds) (cs := []) (rest := rest) hc hst hidx hlen hk
    exact ⟨_, hrun, hst⟩

/-! ### The checksum bytes (R105) -/

/-- `s` between the two checksum bytes of a candidate: the payload stands in the buffer `m`, the first byte in `c0` (R23, R25). -/
def State.betweenChecksumBytes (s : State) (m : Memory) (c0 : Byte) : State :=
  { s with pbuf := m, c0 := some c0, idx := 1#8, st := St.readChecksum }

section Candidate

variable {s : State} {ds : List Byte} {c0 : Byte} {rest : List HostMove} (hc : s.cfg.wf = true) (hst : s.st = St.readPacket)
  (hidx : s.idx = 0#8) (hlen : ds.length + 1 = s.cfg.plen)

include hc hst hidx hlen

/-- A payload with the right device id leads to READ_CHECKSUM. -/
theorem steps_fed_ownPayload {cs : List Byte} :
    ∃ m, steps s.cfg.plen (s.fed ((s.cfg.deviceId :: ds) ++ cs) rest) =
        .next ({ s with pbuf := m, idx := 0#8, st := St.readChecksum }.fed cs rest) ∧
      m.HoldsFirst (s.cfg.deviceId :: ds) s.cfg.plen := by
  have h := steps_fed_payload (p := s.cfg.deviceId :: ds) (cs := cs) (rest := rest) hc hst hidx hlen
  rwa [if_pos (List.getElem?_cons_zero ..)] at h

/-- The first checksum byte is kept in `c0`. -/
theorem steps_fed_firstChecksum {cs : List Byte} :
    ∃ m, steps (s.cfg.plen + 1) (s.fed ((s.cfg.deviceId :: ds) ++ c0 :: cs) rest) =
        .next ((s.betweenChecksumBytes m c0).fed cs rest) ∧
      m.HoldsFirst (s.cfg.deviceId :: ds) s.cfg.plen := by
  obtain ⟨m, hrun, hm⟩ := steps_fed_ownPayload (rest := rest) hc hst hidx hlen (cs := c0 :: cs)
  refine ⟨m, ?_, hm⟩
  rw [steps_add (n := 1) hrun,
    steps_succ (step_fed_readChecksum_first (s := { s with pbuf := m, idx := 0#8, st := St.readChecksum }) hc rfl rfl), steps,
    State.betweenChecksumBytes]

/-- The second checksum byte evaluates the candidate. -/
theorem steps_fed_candidate {c1 : Byte} :
    ∃ m, steps (s.cfg.plen + 2) (s.fed ((s.cfg.deviceId :: ds) ++ [c0, c1]) rest) =
      .next (evaluate c0 c1 (s.cfg.deviceId :: ds) ((s.betweenChecksumBytes m c0).fed [] rest)) := by
  obtain ⟨m, hrun, hm⟩ := steps_fed_firstChecksum (c0 := c0) (rest := rest) hc hst hidx hlen (cs := [c1])
  have hp : (s.betweenChecksumBytes m c0).payload = some (s.cfg.deviceId :: ds) := State.payload_of_holdsFirst hlen hm
  refine ⟨m, (steps_add (n := 1) hrun).trans ?_⟩
  rw [steps_succ (step_fed_readChecksum_second (s := s.betweenChecksumBytes m c0) hc rfl rfl rfl hp), steps]

end Candidate

/-- Settles O43: after the payload and the checksum bytes the evaluation is `evaluate_mismatch`; before its last byte the block is in
READ_PACKET or in READ_CHECKSUM. -/
theorem badChecksumConsumesTheFrame : Obligations.BadChecksumConsumesTheFrame := by
  intro s ds c0 c1 rest hc hst hidx hlen hne
  refine ⟨?_, fun k hk => ?_⟩
  · obtain ⟨m, hrun⟩ := steps_fed_candidate (c0 := c0) (c1 := c1) (rest := rest) hc hst hidx hlen
    rw [evaluate_mismatch (s := (s.betweenChecksumBytes m c0).fed [] rest) (beq_false_of_ne hne)] at hrun
    exact ⟨_, hrun, rfl, rfl, rfl, rfl, rfl, rfl⟩
  · obtain hk | rfl | rfl : k < s.cfg.plen ∨ k = s.cfg.plen ∨ k = s.cfg.plen + 1 := by omega
    · obtain ⟨m, hrun, -⟩ := steps_fed_packet (p := s.cfg.deviceId :: ds) (cs := [c0, c1]) (rest := rest) hc hst hidx hlen hk
      exact ⟨_, hrun, .inl hst⟩
    · obtain ⟨m, hrun, -⟩ := steps_fed_ownPayload (rest := rest) hc hst hidx hlen (cs := [c0, c1])
      exact ⟨_, hrun, .inr rfl⟩
    · obtain ⟨m, hrun, -⟩ := steps_fed_firstChecksum (c0 := c0) (rest := rest) hc hst hidx hlen (cs := [c1])
      exact ⟨_, hrun, .inr rfl⟩

/-! ### A whole frame (R118 (b)) -/

/-- A frame that begins in SEARCH_SYNC becomes a candidate whose checksum test holds. -/
theorem steps_fed_frame {s : State} {rb : List Byte} {rest : List HostMove} (hc : s.cfg.wf = true) (hst : s.st = St.searchSync)
    (hlen : rb.length = s.cfg.plen - 1) :
    ∃ k0 k1 m, checksumOk s.cfg k0 k1 (s.cfg.deviceId :: rb) = true ∧
      steps (s.cfg.plen + 5) (s.fed (frame s.cfg rb) rest) =
        .next (evaluate k0 k1 (s.cfg.deviceId :: rb) ((s.betweenChecksumBytes m k0).fed [] rest)) := by
  obtain ⟨k0, k1, hframe, hread⟩ := frame_layout s.cfg rb
  have hpos := s.cfg.plen_pos hc
  obtain ⟨m, hrun⟩ := steps_fed_candidate (s := { s with idx := 0#8, st := St.readPacket }) (ds := rb) (c0 := k0) (c1 := k1)
    (rest := rest) hc rfl rfl (by rw [hlen]; exact Nat.sub_add_cancel hpos)
  refine ⟨k0, k1, m, beq_iff_eq.2 hread, ?_⟩
  rw [hframe, show s.cfg.plen + 5 = 3 + (s.cfg.plen + 2) by omega]
  exact (steps_add (steps_fed_frameHead hc hst)).trans hrun

/-- Settles O45: the frame is a matching candidate (`steps_fed_frame`); with fewer than 42 record bytes its evaluation is
`evaluate_structural`, else `evaluate_record`. -/
theorem frameFromSearchSyncIsAccepted : Obligations.FrameFromSearchSyncIsAccepted := by
  intro s rb rest hc hst hlen
  obtain ⟨k0, k1, m, hok, hrun⟩ := steps_fed_frame (rest := rest) hc hst hlen
  refine ⟨_, hrun, ?_⟩
  have hrec : (s.cfg.deviceId :: rb).length - 1 = s.cfg.plen - 1 := hlen
  by_cases hlong : 42 ≤ s.cfg.plen - 1
  · obtain ⟨r, hu⟩ := unpack_record_of_le (hrec ▸ hlong)
    rw [evaluate_record (s := (s.betweenChecksumBytes m k0).fed [] rest) hok hu]
    exact ⟨rfl, rfl, rfl, rfl, rfl, rfl, fun hshort => absurd hlong (Nat.not_le.2 hshort), fun _ => ⟨r, hu, rfl, rfl⟩⟩
  · have hu := (unpack_eq_structural_iff (s.cfg.deviceId :: rb)).2 (hrec ▸ hlong)
    rw [evaluate_structural (s := (s.betweenChecksumBytes m k0).fed [] rest) hok hu]
    exact ⟨rfl, rfl, rfl, rfl, rfl, rfl, fun _ => ⟨rfl, rfl⟩, fun h => absurd h hlong⟩

/-! ### The way back to SEARCH_SYNC (R118 (a)) -/

/-- A bound on the bytes an active state consumes before SEARCH_SYNC. -/
def State.bytesToSearch (s : State) : Nat :=
  if s.st = St.readSync then s.cfg.plen + 4
  else if s.st = St.readLength then s.cfg.plen + 3
  else if s.st = St.readPacket then s.cfg.plen + 2 - s.idx.toNat
  else if s.st = St.readChecksum then 2 - s.idx.toNat
  else 0

theorem bytesToSearch_of_readPacket {s : State} (h : s.st = St.readPacket) : s.bytesToSearch = s.cfg.plen + 2 - s.idx.toNat := by
  simp [State.bytesToSearch, h]

theorem bytesToSearch_le (s : State) : s.bytesToSearch ≤ s.cfg.plen + 4 := by
  unfold State.bytesToSearch; split_ifs <;> omega

/-- From each active state but SEARCH_SYNC a byte leads to an active state that is nearer to SEARCH_SYNC. -/
theorem exec_byte_approaches {s t : State} {b : Byte} (hactive : s.active = true) (hne : s.st ≠ St.searchSync)
    (hexec : exec (s.dispatch (Token.byte b)) s = .next t) : t.active = true ∧ t.bytesToSearch < s.bytesToSearch := by
  obtain ⟨hst, -, -⟩ | ⟨hst, -, rfl⟩ | ⟨hst, -, -, rfl⟩ | ⟨hst, -, -, rfl⟩ | ⟨hst, -, hpacket⟩ | ⟨hst, -, hcheck⟩ |
    ⟨-, hk, -⟩ | ⟨hst, -⟩ := exec_dispatch_cases hexec
  · exact absurd hst hne
  · split <;> simp [State.active, State.bytesToSearch, hst]
  · simp [State.active, State.bytesToSearch, hst]
  · simp [State.active, State.bytesToSearch, hst]
  · obtain ⟨hmore, rfl⟩ | ⟨hlast, id, -, rfl⟩ := execByteReadPacket_next hpacket
    · refine ⟨hactive, ?_⟩
      rw [bytesToSearch_of_readPacket hst, bytesToSearch_of_readPacket (by exact hst), idx_succ_toNat hmore]
      change s.cfg.plen + 2 - (s.idx.toNat + 1) < s.cfg.plen + 2 - s.idx.toNat
      omega
    · split <;> simp [State.active, State.bytesToSearch, hst] <;> omega
  · obtain ⟨hidx, rfl⟩ | ⟨hidx, c0, p, -, -, rfl⟩ := execByteReadChecksum_next hcheck
    · simp [State.active, State.bytesToSearch, hst, hidx]
    · rw [evaluate_eq_update]
      simp [State.active, State.bytesToSearch, hst, hidx]
  · rw [Token.byte_k] at hk; cases hk
  · rw [State.active, hst] at hactive; cases hactive

theorem fed_of_input_eq {s : State} {bs : List Byte} {rest : List HostMove} (h : s.input = presentBytes bs ++ rest) :
    s.fed bs rest = s := by
  rw [State.fed, ← h]

/-- As many bytes as `bytesToSearch` lead to SEARCH_SYNC, whatever they are. -/
theorem exists_steps_searchSync {s : State} {bs : List Byte} {rest : List HostMove} (hinv : Inv s) (hactive : s.active = true)
    (hlen : s.bytesToSearch ≤ bs.length) : ∃ k t, k ≤ s.bytesToSearch ∧ steps k (s.fed bs rest) = .next t ∧ t.st = St.searchSync := by
  induction bs generalizing s with
  | nil =>
    obtain hst | hne := eq_or_ne s.st St.searchSync
    · exact ⟨0, _, Nat.zero_le _, rfl, hst⟩
    · obtain ⟨t, hexec⟩ := hinv.exec_dispatch_next (Token.byte 0#8)
      have hless := (exec_byte_approaches hactive hne hexec).2
      rw [List.length_nil] at hlen
      omega
  | cons b bs ih =>
    obtain hst | hne := eq_or_ne s.st St.searchSync
    · exact ⟨0, _, Nat.zero_le _, rfl, hst⟩
    · have hfed : Inv (s.fed bs rest) := hinv.with_input _
      obtain ⟨t, hexec⟩ := hfed.exec_dispatch_next (Token.byte b)
      obtain ⟨htactive, hless⟩ := exec_byte_approaches (s := s.fed bs rest) hactive hne hexec
      have hless : t.bytesToSearch < s.bytesToSearch := hless
      obtain ⟨k, u, hk, hrun, hu⟩ := ih (exec_dispatch_keeps_inv hfed hexec) htactive (by rw [List.length_cons] at hlen; omega)
      rw [fed_of_input_eq (exec_frame hexec).2] at hrun
      have hstep : step (s.fed (b :: bs) rest) = .next t := (step_fed hinv.cfgLegal).trans hexec
      exact ⟨k + 1, u, by omega, (steps_succ hstep).trans hrun, hu⟩

/-- Settles O44: a byte outside SEARCH_SYNC brings the block nearer to it (`exec_byte_approaches`), and it is at most `PLEN + 4` bytes
away. -/
theorem searchSyncWithinOneFrame : Obligations.SearchSyncWithinOneFrame := by
  intro s ds rest hinv hactive hlen
  have hle := bytesToSearch_le s
  obtain ⟨k, t, hk, hrun, ht⟩ := exists_steps_searchSync (rest := rest) hinv hactive (hlen ▸ hle)
  exact ⟨k, t, hk.trans hle, hrun, ht⟩

end Sys2Proof.Machine
end

section
/-! The field unpacker's derived rules: bytes beyond the record (R137), and packing as its inverse (R138). -/

namespace Sys2Proof.Machine

theorem unpack_of_lt {p : List Byte} (h : recBytes < p.length) : unpack p = .record (recordOf p h) := by
  have hlong : ¬ p.length - 1 < recBytes := by omega
  rw [unpack, dif_neg hlong]

/-! ### Bytes beyond the record (R137) -/

theorem s32At_append {p q : List Byte} {o : Nat} (h : o + 4 < p.length) (h' : o + 4 < (p ++ q).length) :
    s32At (p ++ q) o h' = s32At p o h := by
  rw [s32At, List.getElem_append_left, List.getElem_append_left, List.getElem_append_left, List.getElem_append_left h, s32At]

theorem s16At_append {p q : List Byte} {o : Nat} (h : o + 2 < p.length) (h' : o + 2 < (p ++ q).length) :
    s16At (p ++ q) o h' = s16At p o h := by
  rw [s16At, List.getElem_append_left, List.getElem_append_left h, s16At]

theorem u8At_append {p q : List Byte} {o : Nat} (h : o + 1 < p.length) (h' : o + 1 < (p ++ q).length) :
    u8At (p ++ q) o h' = u8At p o h := by
  rw [u8At, List.getElem_append_left h, u8At]

theorem recordOf_append {p q : List Byte} (h : recBytes < p.length) (h' : recBytes < (p ++ q).length) :
    recordOf (p ++ q) h' = recordOf p h := by
  have hlen : 42 < p.length := h
  have hnumber : u8At (p ++ q) 41 h' = u8At p 41 h := u8At_append h h'
  simp (disch := omega) only [recordOf, s32At_append, s16At_append, u8At_append, hnumber]

/-- Settles O48: every field of the record lies within the first 43 bytes (`recordOf_append`). -/
theorem unpackIgnoresBytesBeyondTheRecord : Obligations.UnpackIgnoresBytesBeyondTheRecord := by
  intro p q h
  have hp : recBytes < p.length := h
  have hpq : recBytes < (p ++ q).length := by rw [List.length_append]; omega
  rw [unpack_of_lt hp, unpack_of_lt hpq, recordOf_append hp]

/-! ### Packing (R138) -/

@[simp] theorem length_bytes32 (v : Word) : (bytes32 v).length = 4 := rfl

@[simp] theorem length_bytes16 (v : Half) : (bytes16 v).length = 2 := rfl

@[simp] theorem length_pack (r : Record) : (pack r).length = 42 := by simp [pack]

/-- The fields of a packed record are the record's. -/
theorem recordOf_cons_pack (x : Byte) (r : Record) (h : recBytes < (x :: pack r).length) : recordOf (x :: pack r) h = r := by
  obtain ⟨ax, ay, az, wx, wy, wz, tax, tay, taz, twx, twy, twz, s, timestamp, status, number⟩ := r
  simp only [recordOf, s32At, s16At, u8At, pack, bytes32, bytes16, List.cons_append, List.nil_append, List.getElem_cons_succ,
    List.getElem_cons_zero, le32_bytes, le16_bytes]

/-- The bytes of a 32-bit field are the four payload bytes at its offset. -/
theorem bytes32_s32At {x : Byte} {rb : List Byte} {o : Nat} (h : o + 4 < (x :: rb).length) :
    bytes32 (s32At (x :: rb) o h) = (rb.drop o).take 4 := by
  rw [List.length_cons] at h
  rw [s32At, bytes32_le32, List.drop_eq_getElem_cons (by omega), List.drop_eq_getElem_cons (by omega),
    List.drop_eq_getElem_cons (by omega), List.drop_eq_getElem_cons (by omega)]
  rfl

/-- The bytes of a 16-bit field are the two payload bytes at its offset. -/
theorem bytes16_s16At {x : Byte} {rb : List Byte} {o : Nat} (h : o + 2 < (x :: rb).length) :
    bytes16 (s16At (x :: rb) o h) = (rb.drop o).take 2 := by
  rw [List.length_cons] at h
  rw [s16At, bytes16_le16, List.drop_eq_getElem_cons (by omega), List.drop_eq_getElem_cons (by omega)]
  rfl

/-- The two single bytes at the end of a record. -/
theorem status_number_eq {x : Byte} {rb : List Byte} (h : 42 < (x :: rb).length) :
    [u8At (x :: rb) 40 (by omega), u8At (x :: rb) 41 h] = (rb.drop 40).take 2 := by
  rw [List.length_cons] at h
  rw [List.drop_eq_getElem_cons (by omega), List.drop_eq_getElem_cons (by omega)]
  rfl

/-- The fields follow each other without a gap, so packing a record gives back its 42 bytes. -/
theorem pack_recordOf {x : Byte} {rb : List Byte} (hlen : rb.length = 42) (h : recBytes < (x :: rb).length) :
    pack (recordOf (x :: rb) h) = rb := by
  have hjoin (i j : Nat) : rb.take i ++ (rb.drop i).take j = rb.take (i + j) := List.take_add.symm
  have hfirst : (rb.drop 0).take 4 = rb.take 4 := rfl
  simp only [pack, recordOf, bytes32_s32At, bytes16_s16At, status_number_eq h, hfirst, hjoin, Nat.reduceAdd]
  exact List.take_of_length_le hlen.le

/-- Settles O49: `recordOf_cons_pack` and `pack_recordOf`. -/
theorem packAndUnpackAreInverse : Obligations.PackAndUnpackAreInverse := by
  refine ⟨fun x r => ⟨length_pack r, ?_⟩, fun x rb hlen => ?_⟩
  · have h : recBytes < (x :: pack r).length := by rw [List.length_cons, length_pack]; decide
    rw [unpack_of_lt h, recordOf_cons_pack]
  · have h : recBytes < (x :: rb).length := by rw [List.length_cons, hlen]; decide
    exact ⟨_, unpack_of_lt h, pack_recordOf hlen h⟩

end Sys2Proof.Machine
end

section
/-! The checksum engine's derived rules: the table-driven form (R84) and the corner cases (R88). -/

namespace Sys2Proof.Machine

/-! ### The table-driven form (R84) -/

/-- A reflected byte above eight zeroes is, mirrored, the byte itself. -/
theorem reflect16_reflect8_shiftLeft (b : Byte) : reflect16 ((reflect8 b).setWidth 16 <<< 8) = b.setWidth 16 := by
  unfold reflect16 reflect8
  ext i hi
  simp
  grind

/-- Eight shifts split by bytes: the low byte selects a table entry, the high byte moves down. -/
theorem tableShifts_eight (poly r : Half) :
    tableShifts (reflect16 poly) 8 r = (r >>> 8) ^^^ tableEntry poly (r.extractLsb' 0 8) := by
  have hsplit : r = (r >>> 8) <<< 8 ^^^ (r.extractLsb' 0 8).setWidth 16 := by
    ext i hi
    simp
    grind
  have hhigh : tableShifts (reflect16 poly) 8 ((r >>> 8) <<< 8) = r >>> 8 := by
    rw [tableShifts_of_low_zero _ _ _ fun i hi => by simp [hi]]
    ext i hi
    simpa using BitVec.lt_of_getLsbD
  calc tableShifts (reflect16 poly) 8 r
      = tableShifts (reflect16 poly) 8 ((r >>> 8) <<< 8 ^^^ (r.extractLsb' 0 8).setWidth 16) := by rw [← hsplit]
    _ = (r >>> 8) ^^^ tableEntry poly (r.extractLsb' 0 8) := by rw [tableShifts_xor, hhigh, tableEntry]

/-- A byte has no bits in the upper half of the register. -/
theorem xor_setWidth_shiftRight (r : Half) (b : Byte) : (r ^^^ b.setWidth 16) >>> 8 = r >>> 8 := by
  ext i hi
  simp

/-- One byte of R81 is, mirrored, one byte of R84. -/
theorem reflect16_crcByte {alg : CrcAlg} (hin : alg.refin = true) (reg : Half) (b : Byte) :
    reflect16 (crcByte alg reg b) = tableByte (tableEntry alg.poly) (reflect16 reg) b := by
  rw [crcByte, if_pos hin, reflect16_crcShifts, reflect16_xor, reflect16_reflect8_shiftLeft, tableShifts_eight,
    xor_setWidth_shiftRight, tableByte]

theorem reflect16_foldl_crcByte {alg : CrcAlg} (hin : alg.refin = true) (bytes : List Byte) (reg : Half) :
    reflect16 (bytes.foldl (crcByte alg) reg) = bytes.foldl (tableByte (tableEntry alg.poly)) (reflect16 reg) := by
  induction bytes generalizing reg with
  | nil => rfl
  | cons b bytes ih => rw [List.foldl_cons, List.foldl_cons, ih, reflect16_crcByte hin]

/-- The table-driven form computes the checksum of R81. -/
theorem checksumByTable_eq {alg : CrcAlg} (hin : alg.refin = true) (hout : alg.refout = true) (bytes : List Byte) :
    checksumByTable (tableEntry alg.poly) alg bytes = checksum16 alg bytes := by
  rw [checksumByTable, ← reflect16_foldl_crcByte hin]
  simp only [checksum16, hout, if_true]

/-- The printed table is the one R84 defines for the default algorithm. -/
theorem arcTable_eq_tableEntry (i : Byte) : arcTable.getD i.toNat 0#16 = tableEntry CrcAlg.arc.poly i := by
  revert i; decide +kernel

/-- Settles O52: the two shift registers mirror each other byte by byte (`reflect16_crcByte`), and the printed table has the entries of
R84. -/
theorem tableDrivenFormAgrees : Obligations.TableDrivenFormAgrees := by
  refine ⟨fun alg bytes hin hout => checksumByTable_eq hin hout bytes, fun bytes => ?_⟩
  rw [funext arcTable_eq_tableEntry]
  exact checksumByTable_eq rfl rfl bytes

/-! ### Corner cases (R88) -/

/-- A zero byte leaves a zero register. -/
theorem foldl_crcByte_replicate_zero (n : Nat) : (List.replicate n 0#8).foldl (crcByte CrcAlg.arc) 0#16 = 0#16 := by
  have hzero : crcByte CrcAlg.arc 0#16 0#8 = 0#16 := by decide
  induction n with
  | zero => rfl
  | succ n ih => rw [List.replicate_succ, List.foldl_cons, hzero, ih]

/-- A register that takes its own low byte and then its own high byte becomes zero: each selects the table's zero entry. -/
theorem tableByte_tableByte_own (poly r : Half) :
    tableByte (tableEntry poly) (tableByte (tableEntry poly) r (r.extractLsb' 0 8)) (r.extractLsb' 8 8) = 0#16 := by
  have hentry : tableEntry poly 0#8 = 0#16 := by
    rw [tableEntry, tableShifts_of_low_zero _ _ _ fun i _ => by simp]
    rfl
  have hlow : tableByte (tableEntry poly) r (r.extractLsb' 0 8) = r >>> 8 := by
    have hown : (r ^^^ (r.extractLsb' 0 8).setWidth 16).extractLsb' 0 8 = 0#8 := by ext i hi; simp; grind
    rw [tableByte, hown, hentry, BitVec.xor_zero]
  have hhigh : (r >>> 8 ^^^ (r.extractLsb' 8 8).setWidth 16).extractLsb' 0 8 = 0#8 := by ext i hi; simp; grind
  rw [hlow, tableByte, hhigh, hentry, BitVec.xor_zero]
  ext i hi
  simp

/-- The residue: a span followed by its own checksum, the low byte first, has checksum 0. -/
theorem checksum16_arc_residue (bytes : List Byte) :
    checksum16 CrcAlg.arc (bytes ++ checksumBytes .lowFirst (checksum16 CrcAlg.arc bytes)) = 0x0000#16 := by
  have htable (bs : List Byte) : checksum16 CrcAlg.arc bs = bs.foldl (tableByte (tableEntry CrcAlg.arc.poly)) 0#16 := by
    rw [← checksumByTable_eq rfl rfl, checksumByTable]
    exact BitVec.xor_zero
  rw [htable (bytes ++ _), List.foldl_append, ← htable bytes]
  exact tableByte_tableByte_own _ _

/-- Settles O53: the register starts at 0 and zero bytes keep it there; the all-zero record is computed; the residue is
`checksum16_arc_residue`. -/
theorem checksumCornerCases : Obligations.ChecksumCornerCases := by
  refine ⟨by decide, fun n => ?_, by decide +kernel, checksum16_arc_residue⟩
  have hinit : CrcAlg.arc.init = 0#16 := rfl
  simp only [checksum16, hinit, foldl_crcByte_replicate_zero]
  decide

end Sys2Proof.Machine
end

section
/-! What the host sees: the status port (R32) and the event kinds (R65). -/

namespace Sys2Proof.Machine

/-- Settles O55: each signal is its field, and states that differ in the buffer and `c0` only have the same five fields. -/
theorem statusPortShowsTheFields : Obligations.StatusPortShowsTheFields := by
  refine ⟨fun s => ⟨rfl, rfl, rfl, rfl, rfl⟩, fun s t h => ?_⟩
  rw [h]; rfl

/-- Settles O56: the four cases of `kindCode`. -/
theorem eventKindCodes : Obligations.EventKindCodes := ⟨rfl, rfl, fun _ => rfl, fun _ _ _ => rfl⟩

end Sys2Proof.Machine
end
